-- ==== Sys2Proof/Word.lean ====
section
/-! DEFINITION. The words of this hardware: a wire word of 32 bits, a host command code of 4 bits and the number of a
register. -/

namespace Sys2Proof

/-- A wire word, 32 bits (00_scope.md R8, R10; 30_encoding.md R39). Bit 0 is its least significant bit. -/
abbrev Word := BitVec 32

/-- A host command code `op[3:0]`, 4 bits (30_encoding.md R52). -/
abbrev Code := BitVec 4

/-- The number of a register, 0 to 5 (`NREG = 6`, 00_scope.md R8). -/
abbrev RegIndex := Fin 6

end Sys2Proof
end

