-- ==== Sys2Proof/Config.lean ====
section
/-! DEFINITION. The open parameters of the block (00_scope.md R9) as plain data, and the values the spec leaves open
and gives no default for, as constants without a body: nothing can be proved about which value they have. -/

namespace Sys2Proof

/-- A pin level (10_state.md R16). -/
inductive Level where
  | low
  | high
deriving DecidableEq, Repr

/-- What the writer does to DATA after each falling clock edge (00_scope.md R9, 41_serial_writer.md R70). -/
inductive DataRelease where
  | hold
  | driveLow
deriving DecidableEq, Repr

/-- The LE edge at which the reference receiver commits (00_scope.md R9, 41_serial_writer.md R76). -/
inductive CommitEdge where
  | rise
  | fall
deriving DecidableEq, Repr

/-- The name of a field of a register record, as the spec spells it (10_state.md R24). -/
abbrev FieldName := String

/-- One field of a layout: its name, the position of its lowest bit and its width (30_encoding.md R40). -/
structure Field where
  name  : FieldName
  lsb   : Nat
  width : Nat
deriving DecidableEq, Repr

/-- `LAYOUT`: for each register the list of its fields (30_encoding.md R40). -/
structure Layout where
  fields : Vector (List Field) 6
deriving DecidableEq, Repr

/-- A register record: a flat set of named fields (10_state.md R23). Each value is a natural of any size. A field that
is not listed has the value 0 (30_encoding.md R53, log 22). -/
abbrev RegRecord := List (FieldName × Nat)

/-- The six records Reg0 to Reg5 (10_state.md R23). -/
abbrev Registers := Vector RegRecord 6

/-- The parameters that a model takes as arguments and that no step changes (00_scope.md R9, 10_state.md R16). They
stand in the state so that every statement is about every value of them (log 4). `T_STEP` is `Config.tStep`: no step
reads it. -/
structure Params where
  /-- `LAYOUT` (92_eei_decisions.md D3). -/
  layout       : Layout
  /-- `CS_ACTIVE` (92_eei_decisions.md D6). -/
  csActive     : Level
  /-- `DATA_RELEASE` (92_eei_decisions.md D8). -/
  dataRelease  : DataRelease
  /-- `RX_COMMIT_EDGE` (92_eei_decisions.md D11). -/
  rxCommitEdge : CommitEdge
  /-- `DEFAULTS` (92_eei_decisions.md D21). -/
  defaults     : Registers
deriving DecidableEq, Repr

/-- `T_STEP`, the least length of one wait (70_reset_and_hazards.md R106). The spec gives no value (91 N5, log 8). -/
opaque Config.tStep : Nat

/-- The code of `Reg2.low_noise_spur` for the host's Boolean `low_noise`. The spec leaves it open (91 N8, log 9). -/
opaque Config.lowNoiseCode : Bool → Nat

/-- Whether the host's `set_mode` drives `Reg2.power_down`. The spec leaves it open (91 N9, log 10). -/
opaque Config.modeDrivesPowerDown : Bool

/-- Whether the host's `set_mode` drives `Reg2.cp_three_state`. The spec leaves it open (91 N9, log 10). -/
opaque Config.modeDrivesThreeState : Bool

end Sys2Proof
end

