-- ==== Sys2Proof/Machine/Layout.lean ====
section
/-! DEFINITION. The default layout (30_encoding.md R43 to R48), the checks a layout must pass (R40), the power-on-safe
records (70_reset_and_hazards.md R104), and reading and setting a field of a register record. -/

namespace Sys2Proof.Machine

/-- The fields of `LAYOUT[k]` (30_encoding.md R40). -/
def layoutFields (l : Layout) (k : RegIndex) : List Field :=
  l.fields[k]

/-- `LAYOUT[0]` of the default layout (30_encoding.md R43). -/
def defaultReg0 : List Field :=
  [⟨"frac", 3, 12⟩, ⟨"int", 15, 16⟩]

/-- `LAYOUT[1]` of the default layout (30_encoding.md R44). -/
def defaultReg1 : List Field :=
  [⟨"mod", 3, 12⟩, ⟨"phase", 15, 12⟩, ⟨"prescaler", 27, 1⟩, ⟨"phase_adjust", 28, 1⟩]

/-- `LAYOUT[2]` of the default layout (30_encoding.md R45). -/
def defaultReg2 : List Field :=
  [⟨"counter_reset", 3, 1⟩, ⟨"cp_three_state", 4, 1⟩, ⟨"power_down", 5, 1⟩, ⟨"pd_polarity", 6, 1⟩,
   ⟨"ldp", 7, 1⟩, ⟨"ldf", 8, 1⟩, ⟨"cp_current", 9, 4⟩, ⟨"double_buffer", 13, 1⟩, ⟨"r_counter", 14, 10⟩,
   ⟨"rdiv2", 24, 1⟩, ⟨"ref_doubler", 25, 1⟩, ⟨"muxout", 26, 3⟩, ⟨"low_noise_spur", 29, 2⟩]

/-- `LAYOUT[3]` of the default layout (30_encoding.md R46). -/
def defaultReg3 : List Field :=
  [⟨"clk_div", 3, 12⟩, ⟨"clk_div_mode", 15, 2⟩, ⟨"csr", 18, 1⟩, ⟨"charge_cancel", 21, 1⟩, ⟨"abp", 22, 1⟩,
   ⟨"band_select_clk_mode", 23, 1⟩]

/-- `LAYOUT[4]` of the default layout (30_encoding.md R47). -/
def defaultReg4 : List Field :=
  [⟨"output_power", 3, 2⟩, ⟨"rf_out_en", 5, 1⟩, ⟨"aux_output_power", 6, 2⟩, ⟨"aux_out_en", 8, 1⟩,
   ⟨"aux_out_sel", 9, 1⟩, ⟨"mtld", 10, 1⟩, ⟨"vco_power_down", 11, 1⟩, ⟨"band_select_clk_div", 12, 8⟩,
   ⟨"rf_div_sel", 20, 3⟩, ⟨"feedback_sel", 23, 1⟩]

/-- `LAYOUT[5]` of the default layout (30_encoding.md R48). -/
def defaultReg5 : List Field :=
  [⟨"reserved_20_19", 19, 2⟩, ⟨"ld_pin_mode", 22, 2⟩]

/-- The default instantiation of `LAYOUT`: the ADF4351 register map (30_encoding.md R42 to R48).
UNVERIFIED: the spec's default, which it has from general knowledge, not from its source (log 5). -/
def defaultLayout : Layout :=
  ⟨#v[defaultReg0, defaultReg1, defaultReg2, defaultReg3, defaultReg4, defaultReg5]⟩

/-- The bounds on one field: 30_encoding.md R40 (a), (b) and (c). -/
abbrev fieldInBounds (f : Field) : Prop :=
  1 ≤ f.width ∧ f.width ≤ 16 ∧ 3 ≤ f.lsb ∧ f.lsb + f.width ≤ 32

/-- Two fields share no bit (30_encoding.md R40 (d)). -/
abbrev fieldsDisjoint (f g : Field) : Prop :=
  f.lsb + f.width ≤ g.lsb ∨ g.lsb + g.width ≤ f.lsb

/-- The fields of one register are well-formed: 30_encoding.md R40 (a) to (e). -/
abbrev fieldsWellFormed (fs : List Field) : Prop :=
  (∀ f ∈ fs, fieldInBounds f) ∧ fs.Pairwise fieldsDisjoint ∧ (fs.map Field.name).Nodup

/-- A well-formed layout (30_encoding.md R40). -/
abbrev layoutWellFormed (l : Layout) : Prop :=
  ∀ k : RegIndex, fieldsWellFormed (layoutFields l k)

/-- `r.f`: the value of a field of a record (00_scope.md R11). A field that is not listed has the value 0
(30_encoding.md R53). -/
def fieldValue (r : RegRecord) (f : FieldName) : Nat :=
  (r.lookup f).getD 0

/-- `r.f <- v`: the record with one field set. -/
def setField (r : RegRecord) (f : FieldName) (v : Nat) : RegRecord :=
  (f, v) :: r.filter fun p => p.1 ≠ f

/-- The record `r` of a host command names only fields of the register's layout, each at most once
(30_encoding.md R53). -/
abbrev recordWellFormed (fs : List Field) (r : RegRecord) : Prop :=
  (∀ p ∈ r, p.1 ∈ fs.map Field.name) ∧ (r.map Prod.fst).Nodup

/-- What the spec fixes of `DEFAULTS` under the default layout: the VCO is powered down and the RF output disabled
(70_reset_and_hazards.md R104). -/
abbrev defaultsSafe (d : Registers) : Prop :=
  fieldValue d[4] "vco_power_down" = 1 ∧ fieldValue d[4] "rf_out_en" = 0

/-- The power-on-safe records this model starts from. The spec fixes `vco_power_down` and `rf_out_en`, and says that
Reg5[20:19] should be 3 (70_reset_and_hazards.md R104).
DESIGN CHOICE: every other field is 0, as the source's "zeroed" leaves it (log 7). -/
def powerOnSafe : Registers :=
  #v[[], [], [], [], [("vco_power_down", 1), ("rf_out_en", 0)], [("reserved_20_19", 3)]]

end Sys2Proof.Machine
end

