-- ==== Sys2Proof/Syntax.lean ====
section
/-! DEFINITION. The block's commands (30_encoding.md R52, opcode_table.json), one constructor each. -/

namespace Sys2Proof

/-- A decoded host command with its operands (30_encoding.md R52). -/
inductive Instr where
  /-- ARM (41_serial_writer.md R65). -/
  | arm
  /-- WRITE_WORD (41_serial_writer.md R66). -/
  | writeWord (w : Word)
  /-- WRITE_ALL (42_sequencing.md R81). -/
  | writeAll (r0 r1 r2 r3 r4 r5 : RegRecord)
  /-- WRITE_R4_R2 (42_sequencing.md R82). -/
  | writeR4R2 (r4 r2 : RegRecord)
  /-- ENC_R0 (40_encoder.md R59). -/
  | encR0 (r : RegRecord)
  /-- ENC_R1 (40_encoder.md R60). -/
  | encR1 (r : RegRecord)
  /-- ENC_R2 (40_encoder.md R61). -/
  | encR2 (r : RegRecord)
  /-- ENC_R3 (40_encoder.md R62). -/
  | encR3 (r : RegRecord)
  /-- ENC_R4 (40_encoder.md R63). -/
  | encR4 (r : RegRecord)
  /-- ENC_R5 (40_encoder.md R64). -/
  | encR5 (r : RegRecord)
deriving DecidableEq, Repr

end Sys2Proof
end

