-- ==== Sys2Proof/WellFormed.lean ====
section
/-! DEFINITION. Which commands are well-formed under a layout: every operand record names only fields of its register,
each at most once (30_encoding.md R53). -/

namespace Sys2Proof

/-- The command's operand records, each with the number of its register (30_encoding.md R52). -/
def Instr.records : Instr → List (RegIndex × RegRecord)
  | .arm => []
  | .writeWord _ => []
  | .writeAll r0 r1 r2 r3 r4 r5 => [(0, r0), (1, r1), (2, r2), (3, r3), (4, r4), (5, r5)]
  | .writeR4R2 r4 r2 => [(4, r4), (2, r2)]
  | .encR0 r => [(0, r)]
  | .encR1 r => [(1, r)]
  | .encR2 r => [(2, r)]
  | .encR3 r => [(3, r)]
  | .encR4 r => [(4, r)]
  | .encR5 r => [(5, r)]

/-- A well-formed command (30_encoding.md R52, R53). A WRITE_WORD operand below 2^32 is a `Word` by its type. -/
abbrev Instr.WellFormed (l : Layout) (i : Instr) : Prop :=
  ∀ p ∈ i.records, Machine.recordWellFormed (Machine.layoutFields l p.1) p.2

end Sys2Proof
end

