-- ==== Sys2Proof/Decode.lean ====
section
/-! DEFINITION. The host command port: a 4-bit code and the operands its row names (30_encoding.md R52), its decoder,
which refuses by name what 60_exceptions.md R91 lists, and the encoder. -/

namespace Sys2Proof

/-- An operand at the command port: a natural (WRITE_WORD) or a register record (30_encoding.md R52). -/
inductive Operand where
  | nat (n : Nat)
  | record (r : RegRecord)
deriving DecidableEq, Repr

/-- A command as the host gives it: the code and the operands in the order of its row (30_encoding.md R52, log 1). -/
structure HostCommand where
  code     : Code
  operands : List Operand
deriving DecidableEq, Repr

/-- Why the decoder refuses a command. -/
inductive DecodeError where
  /-- A code of R52's reserved rows (60_exceptions.md R91 (a)). -/
  | reservedCode (c : Code)
  /-- A WRITE_WORD operand at or above 2^32 (60_exceptions.md R91 (c)). -/
  | wordTooLarge (n : Nat)
  /-- A record names a field that its register's layout does not have (30_encoding.md R53). -/
  | unknownField (k : RegIndex)
  /-- A record names a field twice (30_encoding.md R53). -/
  | repeatedField (k : RegIndex)
  /-- The operands are not those the code's row names, in number and kind. DESIGN CHOICE, safe (log 1). -/
  | wrongOperands (c : Code)
deriving DecidableEq, Repr

/-- Check one operand record of register `k` (30_encoding.md R53). -/
def checkRecord (l : Layout) (k : RegIndex) (r : RegRecord) : Except DecodeError Unit :=
  if ∀ p ∈ r, p.1 ∈ (Machine.layoutFields l k).map Field.name then
    if (r.map Prod.fst).Nodup then .ok () else .error (.repeatedField k)
  else .error (.unknownField k)

/-- Check every operand record of a command. -/
def checkRecords (l : Layout) : List (RegIndex × RegRecord) → Except DecodeError Unit
  | [] => .ok ()
  | (k, r) :: rest =>
    match checkRecord l k r with
    | .ok _ => checkRecords l rest
    | .error e => .error e

/-- The command of an ENC code: `op[2:0]` is the register's number, refused above 5 (30_encoding.md R52). -/
def readEncode (c : Code) (r : RegRecord) : Except DecodeError Instr :=
  match (c.extractLsb' 0 3).toNat with
  | 0 => .ok (.encR0 r)
  | 1 => .ok (.encR1 r)
  | 2 => .ok (.encR2 r)
  | 3 => .ok (.encR3 r)
  | 4 => .ok (.encR4 r)
  | 5 => .ok (.encR5 r)
  | _ => .error (.reservedCode c)

/-- WRITE_WORD's operand: any natural below 2^32 (60_exceptions.md R91 (c)). -/
def readWord (n : Nat) : Except DecodeError Instr :=
  if n < 2 ^ 32 then .ok (.writeWord (BitVec.ofNat 32 n)) else .error (.wordTooLarge n)

/-- The codes with `op[3] = 0`: the rows 0000 to 0111 (30_encoding.md R52). -/
def readWriter (c : Code) (ops : List Operand) : Except DecodeError Instr :=
  match (c.extractLsb' 0 3).toNat with
  | 1 =>
    match ops with
    | [] => .ok .arm
    | _ => .error (.wrongOperands c)
  | 2 =>
    match ops with
    | [.nat n] => readWord n
    | _ => .error (.wrongOperands c)
  | 3 =>
    match ops with
    | [.record r0, .record r1, .record r2, .record r3, .record r4, .record r5] => .ok (.writeAll r0 r1 r2 r3 r4 r5)
    | _ => .error (.wrongOperands c)
  | 4 =>
    match ops with
    | [.record r4, .record r2] => .ok (.writeR4R2 r4 r2)
    | _ => .error (.wrongOperands c)
  | _ => .error (.reservedCode c)

/-- The code `c` is one of R52's reserved rows (60_exceptions.md R91 (a)). -/
abbrev reservedCode (c : Code) : Prop :=
  c = 0b0000#4 ∨ c = 0b0101#4 ∨ c = 0b0110#4 ∨ c = 0b0111#4 ∨ c = 0b1110#4 ∨ c = 0b1111#4

/-- Read a command's code and operands, before its records' fields are looked at (30_encoding.md R52). -/
def readCommand (c : HostCommand) : Except DecodeError Instr :=
  if c.code[3] then
    match c.operands with
    | [.record r] => readEncode c.code r
    | _ => .error (if reservedCode c.code then .reservedCode c.code else .wrongOperands c.code)
  else readWriter c.code c.operands

/-- The decoder, total on every command at the port (30_encoding.md R52, R53; 60_exceptions.md R91). -/
def decode (l : Layout) (c : HostCommand) : Except DecodeError Instr :=
  match readCommand c with
  | .error e => .error e
  | .ok i =>
    match checkRecords l i.records with
    | .ok _ => .ok i
    | .error e => .error e

/-- The code of a command's row (30_encoding.md R52). -/
def codeOf : Instr → Code
  | .arm => 0b0001#4
  | .writeWord _ => 0b0010#4
  | .writeAll _ _ _ _ _ _ => 0b0011#4
  | .writeR4R2 _ _ => 0b0100#4
  | .encR0 _ => 0b1000#4
  | .encR1 _ => 0b1001#4
  | .encR2 _ => 0b1010#4
  | .encR3 _ => 0b1011#4
  | .encR4 _ => 0b1100#4
  | .encR5 _ => 0b1101#4

/-- A command's operands, in the order of its row (30_encoding.md R52). -/
def operandsOf : Instr → List Operand
  | .arm => []
  | .writeWord w => [.nat w.toNat]
  | .writeAll r0 r1 r2 r3 r4 r5 => [.record r0, .record r1, .record r2, .record r3, .record r4, .record r5]
  | .writeR4R2 r4 r2 => [.record r4, .record r2]
  | .encR0 r => [.record r]
  | .encR1 r => [.record r]
  | .encR2 r => [.record r]
  | .encR3 r => [.record r]
  | .encR4 r => [.record r]
  | .encR5 r => [.record r]

/-- The command as the host gives it at the port (30_encoding.md R52). -/
def encode (i : Instr) : HostCommand :=
  ⟨codeOf i, operandsOf i⟩

/-- Operands of zero for a code: the natural 0, and records whose every field is 0 (30_encoding.md R53). -/
def zeroOperands (c : Code) : List Operand :=
  match c.toNat with
  | 2 => [.nat 0]
  | 3 => [.record [], .record [], .record [], .record [], .record [], .record []]
  | 4 => [.record [], .record []]
  | 8 => [.record []]
  | 9 => [.record []]
  | 10 => [.record []]
  | 11 => [.record []]
  | 12 => [.record []]
  | 13 => [.record []]
  | _ => []

/-- The command at the port for a word of the opcode table: bits [3:0] are the code, as the table's mask 0xF says, and
every operand is 0 (log 26). -/
def tableCommand (nbits w : Nat) : HostCommand :=
  let c : Code := BitVec.ofNat 4 (w % 2 ^ nbits)
  ⟨c, zeroOperands c⟩

/-- What the decoder reads, under the default layout, from a word of the opcode table (log 26). -/
def decodeTableWord (nbits w : Nat) : Option Instr :=
  match decode Machine.defaultLayout (tableCommand nbits w) with
  | .ok i => some i
  | .error _ => none

end Sys2Proof
end

