-- ==== Sys2Proof/Machine/State.lean ====
section
/-! DEFINITION. The state: the block's own record (10_state.md R16), the reference receiver (R26), the host's side
(R23, 60_exceptions.md R85, R100), the refusal mark (R91) and the parameters (00_scope.md R9). Plain data. -/

namespace Sys2Proof.Machine

/-- The block's faults (60_exceptions.md R90). -/
inductive Fault where
  /-- Overlap: ARM or a writer command arrived while the block was busy (60_exceptions.md R89). The arrival records it
  in the sticky set. Every step, and every command's meaning, in a state that holds it answers this fault, since such
  a state "takes no further step" (R90). Safe: the machine stops where the source calls the state undefined (log 11). -/
  | overlap
deriving DecidableEq, Repr

/-- Why a command or a program has no meaning (60_exceptions.md R91). -/
inductive Refusal where
  /-- An instruction without a meaning yet. No arm of `exec` says so. Safe. -/
  | notModelled (mnemonic : String)
  /-- A reserved code, an operand at or above 2^32 or a record that is none: the decoder's refusal, returned to the host
  by the arrival of the command (R91 (a), (c), (d)). Safe. -/
  | command (e : DecodeError)
  /-- The layout breaks 30_encoding.md R40: returned to the host by the arrival of any command (R91 (b)). Safe. -/
  | malformedLayout
  /-- A program text that the grammar of 30_encoding.md R53 rejects: returned by its arrival (R91 (d)). Safe. -/
  | malformedText
deriving DecidableEq, Repr

/-- The error kinds (60_exceptions.md R86), symbolic only. The block raises only `noDevice`. -/
inductive ErrorKind where
  | noDevice
  | outOfRange
  | invalidConfiguration
deriving DecidableEq, Repr

/-- What a command returns to the host: one of the four outcomes of 60_exceptions.md R85. -/
inductive Response where
  /-- Ok, with the encoded word for ENC_Rk, or with no value for the writer commands and ARM. -/
  | ok (word : Option Word)
  | error (e : ErrorKind)
  | fault (f : Fault)
  | refused (r : Refusal)
deriving DecidableEq, Repr

/-- The output pins (10_state.md R21). LD is an input the block never reads. -/
inductive Pin where
  | cs
  | le
  | clk
  | data
deriving DecidableEq, Repr

/-- One event of the trace (10_state.md R16, R22). -/
inductive Event where
  | pin (p : Pin) (v : Level)
  | wait
deriving DecidableEq, Repr

/-- The level of each output pin. `none` is a pin not yet driven, whose level is unknown (10_state.md R21). -/
structure Pins where
  cs   : Option Level
  le   : Option Level
  clk  : Option Level
  data : Option Level
deriving DecidableEq, Repr

/-- The phases of the writer within a bit (10_state.md R16, 41_serial_writer.md R67 to R73). -/
inductive Phase where
  | setup
  | rise
  | fall
  | release
  | latchHigh
  | latchLow
deriving DecidableEq, Repr

/-- The word being shifted, the index of the bit being sent, and the phase (10_state.md R19). -/
structure Job where
  word  : Word
  bit   : Fin 32
  phase : Phase
deriving DecidableEq, Repr

/-- The block's state: "the record below. Nothing else is state" (10_state.md R16). -/
structure Block where
  /-- R17. -/
  armed   : Bool
  /-- R18. -/
  busy    : Bool
  /-- R19. -/
  job     : Option Job
  /-- R20: words of the burst not yet started. -/
  pending : List Word
  /-- R21. -/
  pins    : Pins
  /-- 60_exceptions.md R90: a set, held as a list without repeats. -/
  faults  : List Fault
  /-- R22: oldest first. -/
  trace   : List Event
deriving DecidableEq, Repr

/-- The reference receiver (10_state.md R26): its shift register and the last word committed to each index. `none` is
an unknown bit or word. -/
structure RxState where
  sr  : Vector (Option Bool) 32
  reg : Vector (Option Word) 6
deriving DecidableEq, Repr

/-- What the host's planner returned to `set_frequency`: the six records it computed, or its error. The planner is out
of scope, so its outcome is an input (00_scope.md R7 (a), 42_sequencing.md R84, log 25). -/
inductive PlannerOutcome where
  | planned (records : Registers)
  | failed (e : ErrorKind)
deriving DecidableEq, Repr

/-- The host's pseudo-commands (42_sequencing.md R84). -/
inductive PseudoCommand where
  /-- `initialize`. -/
  | setup
  | setFrequency (outcome : PlannerOutcome)
  | setOutputEnable (on : Bool)
  | setMode (up : Bool)
  | setTuning (chargePump outputPower : Nat) (lowNoise : Bool)
deriving DecidableEq, Repr

/-- What a host may do next: give a command at the port (30_encoding.md R52), give a program text (R53), or carry out a
pseudo-command (42_sequencing.md R84). -/
inductive HostAction where
  | command (c : HostCommand)
  | text (source : List Char)
  | pseudo (p : PseudoCommand)
deriving DecidableEq, Repr

/-- When a request reaches the block. The host "waits for each to complete" (60_exceptions.md R100 (a)). A second host
that does not wait (20_memory.md R36) arrives after so many writer micro-steps (95_test_vectors.md P4, log 2). -/
inductive Arrival where
  | whenComplete
  | afterMicroSteps (n : Nat)
deriving DecidableEq, Repr

/-- One request of the host's queue. -/
structure Request where
  arrival : Arrival
  action  : HostAction
deriving DecidableEq, Repr

/-- The host's side: its six register records (10_state.md R23), the requests it has still to issue in order, and the
outcomes returned to it, oldest first. The last two are the model's own (log 2, log 3). -/
structure HostSide where
  records   : Registers
  requests  : List Request
  responses : List Response
deriving DecidableEq, Repr

/-- The whole state. -/
structure State where
  /-- Parameters that no step changes (10_state.md R16). -/
  params  : Params
  /-- The block (10_state.md R16). -/
  block   : Block
  /-- The reference receiver (10_state.md R26). -/
  rx      : RxState
  /-- The host's side (10_state.md R23). -/
  host    : HostSide
  /-- The state-wide refusal mark (60_exceptions.md R91). -/
  refused : Bool
deriving DecidableEq, Repr

/-- Whose turn it is: the block is stopped by a recorded fault, a request of the host arrives, the writer takes a
micro-step, or nothing is left to do. -/
inductive Turn where
  | stopped (f : Fault)
  | host (a : HostAction) (s : State)
  | writer (j : Job) (s : State)
  | idle
deriving DecidableEq, Repr

/-- The block's state at reset (10_state.md R27). -/
def Block.reset : Block :=
  { armed := false, busy := false, job := none, pending := [],
    pins := { cs := none, le := none, clk := none, data := none }, faults := [], trace := [] }

/-- The receiver at reset: every bit and every word unknown (10_state.md R27). -/
def RxState.reset : RxState :=
  { sr := Vector.replicate 32 none, reg := Vector.replicate 6 none }

/-- The parameters this model starts from: the spec's default layout and chip-select level (00_scope.md R9), and
Hold and Rise, which 95_test_vectors.md takes unless a vector says otherwise.
DESIGN CHOICE (log 4, log 5, log 6, log 7). -/
def Params.default : Params :=
  { layout := defaultLayout, csActive := .high, dataRelease := .hold, rxCommitEdge := .rise, defaults := powerOnSafe }

/-- A state right after reset, for any parameters: every element as 10_state.md R27 says, the host's records at
`DEFAULTS`, no request and no response (log 2, log 3), and no refusal mark (log 12). -/
def State.resetWith (p : Params) : State :=
  { params := p, block := Block.reset, rx := RxState.reset,
    host := { records := p.defaults, requests := [], responses := [] }, refused := false }

/-- The state right after reset (10_state.md R27, 70_reset_and_hazards.md R103). -/
def State.reset : State :=
  State.resetWith Params.default

end Sys2Proof.Machine
end

