-- ==== Sys2Proof/Machine/Flags.lean ====
section
/-! DEFINITION. The flags: `armed` (10_state.md R17), `busy` with the job and the pending words (R18 to R20), the
sticky fault set (60_exceptions.md R90) and the refusal mark (R91). -/

namespace Sys2Proof.Machine

/-- `armed <- true` (41_serial_writer.md R65). -/
def setArmed (s : State) : State :=
  { s with block := { s.block with armed := true } }

/-- A burst begins with the word `w`, and `ws` are still to be sent: `busy`, `job` and `pending`
(41_serial_writer.md R66, 42_sequencing.md R81). -/
def setBurst (w : Word) (ws : List Word) (s : State) : State :=
  { s with block := { s.block with
      busy := true, job := some { word := w, bit := 31, phase := .setup }, pending := ws } }

/-- The job moves on within its word. -/
def setJob (j : Job) (s : State) : State :=
  { s with block := { s.block with job := some j } }

/-- The burst's next word becomes the job (41_serial_writer.md R73). -/
def setNextWord (w : Word) (rest : List Word) (s : State) : State :=
  { s with block := { s.block with job := some { word := w, bit := 31, phase := .setup }, pending := rest } }

/-- The burst is over: `job <- none; busy <- false` (41_serial_writer.md R73). -/
def clearBurst (s : State) : State :=
  { s with block := { s.block with job := none, busy := false } }

/-- `fault F`: F is added to the sticky fault set (00_scope.md R11, 60_exceptions.md R90). -/
def addFault (f : Fault) (s : State) : State :=
  { s with block := { s.block with faults := s.block.faults.insert f } }

/-- The state-wide refusal mark is set (60_exceptions.md R91). -/
def setRefused (s : State) : State :=
  { s with refused := true }

end Sys2Proof.Machine
end

