-- ==== Sys2Proof/Machine/Operands.lean ====
section
/-! DEFINITION. The register encoder ENC (40_encoder.md R54 to R58): how an operand record becomes a wire word. -/

namespace Sys2Proof.Machine

/-- One field's part of the word: the value "masked to its declared bit width and shifted into its declared bit
position" (30_encoding.md R41, 40_encoder.md R56). -/
def fieldPart (r : RegRecord) (f : Field) : Nat :=
  (fieldValue r f.name % 2 ^ f.width) <<< f.lsb

/-- The parts of all fields, OR-combined (40_encoder.md R54). -/
def fieldParts (r : RegRecord) : List Field → Nat
  | [] => 0
  | f :: fs => fieldPart r f ||| fieldParts r fs

/-- ENC(k, r) as a natural: the index OR'd with every field's part (40_encoder.md R54). -/
def encodeNat (l : Layout) (k : RegIndex) (r : RegRecord) : Nat :=
  k.val ||| fieldParts r (layoutFields l k)

/-- ENC(k, r), the wire word (40_encoder.md R54). Under a well-formed layout it is `encodeNat`, which is below 2^32. -/
def encodeReg (l : Layout) (k : RegIndex) (r : RegRecord) : Word :=
  BitVec.ofNat 32 (encodeNat l k r)

/-- `w[hi:lo]` as a natural, for a slice of the given width (00_scope.md R10). -/
def slice (w : Word) (lsb width : Nat) : Nat :=
  (w.toNat >>> lsb) % 2 ^ width

/-- The index field of a wire word, bits [2:0] (30_encoding.md R39). -/
def indexOf (w : Word) : Nat :=
  slice w 0 3

end Sys2Proof.Machine
end

