-- ==== Sys2Proof/Machine/Receiver.lean ====
section
/-! DEFINITION. The reference receiver (41_serial_writer.md R76), driven by pin events. It is the spec's own model of
the chip and hidden from the block (10_state.md R26, log 19). -/

namespace Sys2Proof.Machine

/-- The level of a pin (10_state.md R21). -/
def pinLevel (ps : Pins) : Pin → Option Level
  | .cs => ps.cs
  | .le => ps.le
  | .clk => ps.clk
  | .data => ps.data

/-- The pins after one of them is driven (00_scope.md R11). -/
def setPin (ps : Pins) (v : Level) : Pin → Pins
  | .cs => { ps with cs := some v }
  | .le => { ps with le := some v }
  | .clk => { ps with clk := some v }
  | .data => { ps with data := some v }

/-- The bit a level stands for: `known(some High)` is true, `known(some Low)` false (41_serial_writer.md R76). -/
def levelBit : Level → Bool
  | .low => false
  | .high => true

/-- The level a bit is sent as: lvl(1) = High and lvl(0) = Low (41_serial_writer.md R74). -/
def bitLevel : Bool → Level
  | false => .low
  | true => .high

/-- The shift of one rising clock edge: left by one, the new bit at bit 0 (41_serial_writer.md R76). -/
def shiftIn (sr : Vector (Option Bool) 32) (b : Option Bool) : Vector (Option Bool) 32 :=
  Vector.ofFn fun i => if i.val = 0 then b else sr[i.val - 1]

/-- The natural whose bits are listed, the least significant first. -/
def bitsToNat : List Bool → Nat
  | [] => 0
  | b :: bs => b.toNat + 2 * bitsToNat bs

/-- All bits of a list, if every one of them is known. -/
def allKnown : List (Option Bool) → Option (List Bool)
  | [] => some []
  | none :: _ => none
  | some b :: bs =>
    match allKnown bs with
    | some rest => some (b :: rest)
    | none => none

/-- The word in the shift register, if every bit of it is known (41_serial_writer.md R76). -/
def srWord (sr : Vector (Option Bool) 32) : Option Word :=
  match allKnown sr.toList with
  | some bs => some (BitVec.ofNat 32 (bitsToNat bs))
  | none => none

/-- The shift register that holds a word, every bit known. -/
def srOfWord (w : Word) : Vector (Option Bool) 32 :=
  Vector.ofFn fun i => some (w.getLsbD i.val)

/-- Every register index unknown: the unspecified effect (41_serial_writer.md R76, 93_implementation_defined.md I2). -/
def unknownRegs : Vector (Option Word) 6 :=
  Vector.replicate 6 none

/-- The commit of a word: into the register its index selects, or, for index 6 or 7, every entry becomes unknown
(41_serial_writer.md R76). -/
def commitWord (reg : Vector (Option Word) 6) (w : Word) : Vector (Option Word) 6 :=
  if h : indexOf w < 6 then reg.set (indexOf w) (some w) h else unknownRegs

/-- The effect of a commit edge (41_serial_writer.md R76). -/
def rxCommit (rx : RxState) : RxState :=
  match srWord rx.sr with
  | some w => { rx with reg := commitWord rx.reg w }
  | none => { rx with reg := unknownRegs }

/-- The effect of `Pin(CLK, High)`, by the level before it (41_serial_writer.md R76). -/
def rxClock (before : Pins) (rx : RxState) : RxState :=
  match before.clk with
  | some .low => { rx with sr := shiftIn rx.sr (before.data.map levelBit) }
  | some .high => rx
  | none => { rx with sr := Vector.replicate 32 none }

/-- Whether `Pin(LE, v)` is the commit edge: Low to High for Rise, High to Low for Fall (41_serial_writer.md R76).
An event after an unknown level is none: "every other event: no change" (log 20). -/
def isCommitEdge (edge : CommitEdge) (before : Pins) (v : Level) : Bool :=
  match edge, before.le, v with
  | .rise, some .low, .high => true
  | .fall, some .high, .low => true
  | _, _, _ => false

/-- The receiver's reaction to one pin event, given the pin levels just before it (41_serial_writer.md R76). -/
def rxOnPin (edge : CommitEdge) (before : Pins) (p : Pin) (v : Level) (rx : RxState) : RxState :=
  match p, v with
  | .clk, .high => rxClock before rx
  | .le, v => if isCommitEdge edge before v then rxCommit rx else rx
  | _, _ => rx

/-- The receiver and the pins after a trace, from given ones: the receiver is "a function of the trace"
(60_exceptions.md R100 (c)). -/
def replay (edge : CommitEdge) : List Event → Pins × RxState → Pins × RxState
  | [], x => x
  | .wait :: es, x => replay edge es x
  | .pin p v :: es, (ps, rx) => replay edge es (setPin ps v p, rxOnPin edge ps p v rx)

end Sys2Proof.Machine
end

