-- ==== Sys2Proof/Machine/Ops.lean ====
section
/-! DEFINITION. The shared operations: driving a pin and waiting (00_scope.md R11), returning an outcome to the host,
raising an error, a fault or a refusal (60_exceptions.md R85 to R91), and the checks on an arriving command in the
order of R93. -/

namespace Sys2Proof.Machine

/-- `Drive(p, v)`: the pin takes the level, the event joins the trace (00_scope.md R11), and the reference receiver
sees it (41_serial_writer.md R76). -/
def drive (p : Pin) (v : Level) (s : State) : State :=
  { s with
    block := { s.block with
      pins := setPin s.block.pins v p, trace := s.block.trace ++ [Event.pin p v] }
    rx := rxOnPin s.params.rxCommitEdge s.block.pins p v s.rx }

/-- `Wait(T_STEP)`: the event joins the trace (00_scope.md R11). It measures nothing (60_exceptions.md R98). -/
def wait (s : State) : State :=
  { s with block := { s.block with trace := s.block.trace ++ [Event.wait] } }

/-- One transition: a drive and the wait that must elapse after it (41_serial_writer.md, the head of the file;
70_reset_and_hazards.md R106). -/
def driveWait (p : Pin) (v : Level) (s : State) : State :=
  wait (drive p v s)

/-- An outcome is returned to the host (60_exceptions.md R85, log 3). -/
def respond (r : Response) (s : State) : State :=
  { s with host := { s.host with responses := s.host.responses ++ [r] } }

/-- `raise Error(e)`: the command ends, the error goes to the host, no event, nothing of the block changed
(00_scope.md R11, 60_exceptions.md R87, R94). -/
def raiseError (e : ErrorKind) (s : State) : State :=
  respond (.error e) s

/-- The fault of an arriving command: it is recorded in the sticky set and the command is not performed
(60_exceptions.md R89, R90). No step follows: see `receive` and `turn` (log 11). -/
def raiseFault (f : Fault) (s : State) : State :=
  respond (.fault f) (addFault f s)

/-- A refusal: the mark is set, nothing is performed, and the host is told (60_exceptions.md R91, log 12). -/
def refuse (r : Refusal) (s : State) : State :=
  respond (.refused r) (setRefused s)

/-- A command reaches the block. A block that holds a fault takes no step (60_exceptions.md R90). Under a malformed
layout every command is refused (R91 (b), R93, log 13). Otherwise the command goes on. -/
def receive (s : State) (go : State → Host.Outcome State Fault Refusal) : Host.Outcome State Fault Refusal :=
  match s.block.faults with
  | f :: _ => .fault f
  | [] => if layoutWellFormed s.params.layout then go s else .next (refuse .malformedLayout s)

/-- The second check of 60_exceptions.md R93: the fault Overlap, while `busy`. -/
def unlessBusy (s : State) (go : State → Host.Outcome State Fault Refusal) : Host.Outcome State Fault Refusal :=
  if s.block.busy then .next (raiseFault .overlap s) else go s

/-- The third check of 60_exceptions.md R93, for writer commands only: NoDevice, while not armed (R87). -/
def ifArmed (s : State) (go : State → Host.Outcome State Fault Refusal) : Host.Outcome State Fault Refusal :=
  if s.block.armed then go s else .next (raiseError .noDevice s)

/-- A writer command: the checks of 60_exceptions.md R93 in order, then the acceptance of a burst of the words `w`
and `ws`, which are fixed here (42_sequencing.md R80). -/
def acceptBurst (w : Word) (ws : List Word) (s : State) : Host.Outcome State Fault Refusal :=
  receive s fun s => unlessBusy s fun s => ifArmed s fun s => .next (setBurst w ws s)

/-- An encode command: Ok with the word; it reads no flag and changes nothing (40_encoder.md R57). -/
def returnWord (k : RegIndex) (r : RegRecord) (s : State) : Host.Outcome State Fault Refusal :=
  receive s fun s => .next (respond (.ok (some (encodeReg s.params.layout k r))) s)

end Sys2Proof.Machine
end

