-- ==== Sys2Proof/Machine/Encoder.lean ====
section
/-! DEFINITION. The encode commands ENC_R0 to ENC_R5 (40_encoder.md R59 to R64). -/

namespace Sys2Proof.Machine

/-- ENC_R0 (40_encoder.md R59). -/
def execEncR0 (r : RegRecord) (s : State) : Host.Outcome State Fault Refusal :=
  returnWord 0 r s

/-- ENC_R1 (40_encoder.md R60). -/
def execEncR1 (r : RegRecord) (s : State) : Host.Outcome State Fault Refusal :=
  returnWord 1 r s

/-- ENC_R2 (40_encoder.md R61). -/
def execEncR2 (r : RegRecord) (s : State) : Host.Outcome State Fault Refusal :=
  returnWord 2 r s

/-- ENC_R3 (40_encoder.md R62). -/
def execEncR3 (r : RegRecord) (s : State) : Host.Outcome State Fault Refusal :=
  returnWord 3 r s

/-- ENC_R4 (40_encoder.md R63). -/
def execEncR4 (r : RegRecord) (s : State) : Host.Outcome State Fault Refusal :=
  returnWord 4 r s

/-- ENC_R5 (40_encoder.md R64). -/
def execEncR5 (r : RegRecord) (s : State) : Host.Outcome State Fault Refusal :=
  returnWord 5 r s

end Sys2Proof.Machine
end

