-- ==== Sys2Proof/Machine/Sequencer.lean ====
section
/-! DEFINITION. The burst commands WRITE_ALL and WRITE_R4_R2 (42_sequencing.md R79 to R83). -/

namespace Sys2Proof.Machine

/-- WRITE_ALL (42_sequencing.md R81): the six words in the order 5,4,3,2,1,0 (R79), computed now (R80). -/
def execWriteAll (r0 r1 r2 r3 r4 r5 : RegRecord) (s : State) : Host.Outcome State Fault Refusal :=
  acceptBurst (encodeReg s.params.layout 5 r5)
    [encodeReg s.params.layout 4 r4, encodeReg s.params.layout 3 r3, encodeReg s.params.layout 2 r2,
      encodeReg s.params.layout 1 r1, encodeReg s.params.layout 0 r0] s

/-- WRITE_R4_R2 (42_sequencing.md R82): Reg4, then Reg2. -/
def execWriteR4R2 (r4 r2 : RegRecord) (s : State) : Host.Outcome State Fault Refusal :=
  acceptBurst (encodeReg s.params.layout 4 r4) [encodeReg s.params.layout 2 r2] s

end Sys2Proof.Machine
end

