-- ==== Sys2Proof/Machine/Writer.lean ====
section
/-! DEFINITION. ARM and WRITE_WORD (41_serial_writer.md R65, R66) and the writer's micro-steps (R67 to R73). -/

namespace Sys2Proof.Machine

/-- The four drives of ARM, in order (41_serial_writer.md R65). -/
def armPins (s : State) : State :=
  driveWait .data .low (driveWait .clk .low (driveWait .le .low (driveWait .cs s.params.csActive s)))

/-- ARM (41_serial_writer.md R65): Overlap while busy, otherwise the four drives and `armed <- true` (log 15). -/
def execArm (s : State) : Host.Outcome State Fault Refusal :=
  receive s fun s => unlessBusy s fun s => .next (respond (.ok none) (setArmed (armPins s)))

/-- WRITE_WORD (41_serial_writer.md R66): a burst of one word, sent unchanged whatever it is. -/
def execWriteWord (w : Word) (s : State) : Host.Outcome State Fault Refusal :=
  acceptBurst w [] s

/-- `NextBit` (41_serial_writer.md R71). -/
def nextBit (j : Job) : Job :=
  match j.bit with
  | ⟨0, _⟩ => { j with phase := .latchHigh }
  | ⟨n + 1, h⟩ => { j with bit := ⟨n, Nat.lt_of_succ_lt h⟩, phase := .setup }

/-- The Setup step: the data bit is put on the line (41_serial_writer.md R67). -/
def setupStep (j : Job) (s : State) : State :=
  setJob { j with phase := .rise } (driveWait .data (bitLevel (j.word.getLsbD j.bit.val)) s)

/-- The Rise step (41_serial_writer.md R68). -/
def riseStep (j : Job) (s : State) : State :=
  setJob { j with phase := .fall } (driveWait .clk .high s)

/-- The Fall step (41_serial_writer.md R69). -/
def fallStep (j : Job) (s : State) : State :=
  match s.params.dataRelease with
  | .driveLow => setJob { j with phase := .release } (driveWait .clk .low s)
  | .hold => setJob (nextBit j) (driveWait .clk .low s)

/-- The Release step, which exists only under `DATA_RELEASE = DriveLow` (41_serial_writer.md R70). -/
def releaseStep (j : Job) (s : State) : State :=
  setJob (nextBit j) (driveWait .data .low s)

/-- The LatchHigh step (41_serial_writer.md R72). -/
def latchHighStep (j : Job) (s : State) : State :=
  setJob { j with phase := .latchLow } (driveWait .le .high s)

/-- The LatchLow step: the burst's next word, or the end of the command with the result Ok (41_serial_writer.md R73,
R66). -/
def latchLowStep (s : State) : State :=
  match s.block.pending with
  | w :: rest => setNextWord w rest (driveWait .le .low s)
  | [] => respond (.ok none) (clearBurst (driveWait .le .low s))

/-- One micro-step of the writer, by the job's phase (41_serial_writer.md R67 to R73). -/
def microStep (j : Job) (s : State) : State :=
  match j.phase with
  | .setup => setupStep j s
  | .rise => riseStep j s
  | .fall => fallStep j s
  | .release => releaseStep j s
  | .latchHigh => latchHighStep j s
  | .latchLow => latchLowStep s

/-- The events of one bit period (41_serial_writer.md R74). -/
def bitTrace (release : DataRelease) (b : Bool) : List Event :=
  [.pin .data (bitLevel b), .wait, .pin .clk .high, .wait, .pin .clk .low, .wait] ++
    match release with
    | .hold => []
    | .driveLow => [.pin .data .low, .wait]

/-- The events of the bits n-1 down to 0 of a word (41_serial_writer.md R74). -/
def bitsTrace (release : DataRelease) (w : Word) : Nat → List Event
  | 0 => []
  | n + 1 => bitTrace release (w.getLsbD n) ++ bitsTrace release w n

/-- The events one word appends, from its first Setup to the Wait after its LatchLow (41_serial_writer.md R74). -/
def wordTrace (release : DataRelease) (w : Word) : List Event :=
  bitsTrace release w 32 ++ [.pin .le .high, .wait, .pin .le .low, .wait]

/-- The events a burst of words appends (42_sequencing.md R81). -/
def burstTrace (release : DataRelease) : List Word → List Event
  | [] => []
  | w :: ws => wordTrace release w ++ burstTrace release ws

/-- The micro-steps one word takes: 3 or 4 for each bit and 2 for the latch pulse (41_serial_writer.md R74). -/
def wordSteps : DataRelease → Nat
  | .hold => 98
  | .driveLow => 130

end Sys2Proof.Machine
end

