-- ==== Sys2Proof/Machine/Dispatch.lean ====
section
/-! DEFINITION. The dispatch: one arm for each command of 30_encoding.md R52, one direct call of its meaning. -/

namespace Sys2Proof.Machine

/-- A command reaches the block (30_encoding.md R52): what the block does with it at its arrival. -/
def exec (i : Instr) (s : State) : Host.Outcome State Fault Refusal :=
  match i with
  | .arm => Sys2Proof.Machine.execArm s
  | .writeWord w => Sys2Proof.Machine.execWriteWord w s
  | .writeAll r0 r1 r2 r3 r4 r5 => Sys2Proof.Machine.execWriteAll r0 r1 r2 r3 r4 r5 s
  | .writeR4R2 r4 r2 => Sys2Proof.Machine.execWriteR4R2 r4 r2 s
  | .encR0 r => Sys2Proof.Machine.execEncR0 r s
  | .encR1 r => Sys2Proof.Machine.execEncR1 r s
  | .encR2 r => Sys2Proof.Machine.execEncR2 r s
  | .encR3 r => Sys2Proof.Machine.execEncR3 r s
  | .encR4 r => Sys2Proof.Machine.execEncR4 r s
  | .encR5 r => Sys2Proof.Machine.execEncR5 r s

end Sys2Proof.Machine
end

