-- ==== Sys2Proof/Machine/Text.lean ====
section
/-! DEFINITION. The textual form of a host command program (30_encoding.md R53): characters to tokens, tokens to
commands at the port. What the grammar rejects has no command (60_exceptions.md R91 (d)). -/

namespace Sys2Proof.Machine

/-- The tokens of the textual form (30_encoding.md R53). -/
inductive Token where
  | name (s : String)
  | nat (n : Nat)
  | openBrace
  | closeBrace
  | comma
  | colon
  | equals
  | newline
deriving DecidableEq, Repr

/-- A character of a name or of a number. DESIGN CHOICE for names (log 32). -/
def isWordChar (c : Char) : Bool :=
  c.isAlphanum || c == '_'

/-- The value of a hexadecimal digit. -/
def hexDigit (c : Char) : Option Nat :=
  if c.isDigit then some (c.toNat - 48)
  else if 97 ≤ c.toNat ∧ c.toNat ≤ 102 then some (c.toNat - 87)
  else if 65 ≤ c.toNat ∧ c.toNat ≤ 70 then some (c.toNat - 55)
  else none

/-- The value of a decimal digit. -/
def decDigit (c : Char) : Option Nat :=
  if c.isDigit then some (c.toNat - 48) else none

/-- The natural that digits of a base spell, after a value already read. -/
def readDigits (base : Nat) (digit : Char → Option Nat) : Nat → List Char → Option Nat
  | acc, [] => some acc
  | acc, c :: cs =>
    match digit c with
    | some d => readDigits base digit (base * acc + d) cs
    | none => none

/-- A decimal or `0x`-hexadecimal natural (30_encoding.md R53). -/
def readNat : List Char → Option Nat
  | '0' :: 'x' :: c :: cs => readDigits 16 hexDigit 0 (c :: cs)
  | cs => readDigits 10 decDigit 0 cs

/-- The token of a run of word characters: a number if it starts with a digit, otherwise a name. A name is letters, digits
and underscores with no digit first.
DESIGN CHOICE: 30_encoding.md R53 gives a field's name no lexical form, so a layout's field that is named otherwise cannot
be written in a text (log 32). -/
def wordToken (cs : List Char) : Option (List Token) :=
  match cs with
  | [] => some []
  | c :: _ => if c.isDigit then (readNat cs).map fun n => [.nat n] else some [.name (String.ofList cs)]

/-- The tokens of one character that is no word character. A brace is known by its number; blanks and the start of a
comment give none; any other character is rejected, a minus sign among them (30_encoding.md R53). -/
def markToken (c : Char) : Option (List Token) :=
  if c.toNat = 123 then some [.openBrace]
  else if c.toNat = 125 then some [.closeBrace]
  else if c = ',' then some [.comma]
  else if c = ':' then some [.colon]
  else if c = '=' then some [.equals]
  else if c = '\n' then some [.newline]
  else if c = ';' ∨ c = ' ' ∨ c = '\t' ∨ c = '\r' then some []
  else none

/-- Characters to tokens. `comment`: within a comment, which runs from `;` to the end of the line (30_encoding.md
R53). `run`: the word characters read so far, the last first. -/
def tokens (comment : Bool) (run : List Char) : List Char → Option (List Token)
  | [] => wordToken run.reverse
  | c :: cs =>
    if comment then
      if c = '\n' then (tokens false [] cs).map fun ts => .newline :: ts else tokens true [] cs
    else if isWordChar c then tokens false (c :: run) cs
    else do
      let word ← wordToken run.reverse
      let mark ← markToken c
      let rest ← tokens (c == ';') [] cs
      return word ++ mark ++ rest

/-- A line end inside braces ends no command (95_test_vectors.md P1 spreads one over lines, log 23). -/
def dropInnerNewlines : Nat → List Token → List Token
  | _, [] => []
  | 0, .newline :: ts => .newline :: dropInnerNewlines 0 ts
  | d + 1, .newline :: ts => dropInnerNewlines (d + 1) ts
  | d, .openBrace :: ts => .openBrace :: dropInnerNewlines (d + 1) ts
  | d, .closeBrace :: ts => .closeBrace :: dropInnerNewlines (d - 1) ts
  | d, t :: ts => t :: dropInnerNewlines d ts

/-- The lines of a program, without the line ends. -/
def tokenLines : List Token → List (List Token)
  | [] => [[]]
  | .newline :: ts => [] :: tokenLines ts
  | t :: ts =>
    match tokenLines ts with
    | l :: ls => (t :: l) :: ls
    | [] => [[t]]

/-- The fields of a record after its opening brace, at least one (30_encoding.md R53). -/
def parseFieldList : List Token → Option (RegRecord × List Token)
  | .name f :: .equals :: .nat v :: .comma :: rest =>
    match parseFieldList rest with
    | some (fs, out) => some ((f, v) :: fs, out)
    | none => none
  | .name f :: .equals :: .nat v :: .closeBrace :: rest => some ([(f, v)], rest)
  | _ => none

/-- A record in braces, possibly empty (30_encoding.md R53). -/
def parseRecord : List Token → Option (RegRecord × List Token)
  | .openBrace :: .closeBrace :: rest => some ([], rest)
  | .openBrace :: rest => parseFieldList rest
  | _ => none

/-- `Reg<k>` with k from 0 to 5 (30_encoding.md R53). -/
def regNumber (s : String) : Option RegIndex :=
  if s = "Reg0" then some 0
  else if s = "Reg1" then some 1
  else if s = "Reg2" then some 2
  else if s = "Reg3" then some 3
  else if s = "Reg4" then some 4
  else if s = "Reg5" then some 5
  else none

/-- At most `n` entries `Reg<k>: record` after an opening brace, up to the closing one (30_encoding.md R53). -/
def parseRegs : Nat → List Token → Option (List (RegIndex × RegRecord) × List Token)
  | n + 1, .name r :: .colon :: rest => do
    let k ← regNumber r
    let (rec, rest) ← parseRecord rest
    match rest with
    | .closeBrace :: out => some ([(k, rec)], out)
    | .comma :: more => do
      let (entries, out) ← parseRegs n more
      return ((k, rec) :: entries, out)
    | _ => none
  | _, _ => none

/-- WRITE_ALL's operands: all six registers, in any order (30_encoding.md R53). -/
def allSix (entries : List (RegIndex × RegRecord)) : Option (List Operand) := do
  let r0 ← entries.lookup 0
  let r1 ← entries.lookup 1
  let r2 ← entries.lookup 2
  let r3 ← entries.lookup 3
  let r4 ← entries.lookup 4
  let r5 ← entries.lookup 5
  return [.record r0, .record r1, .record r2, .record r3, .record r4, .record r5]

/-- One command of the textual form (30_encoding.md R53). -/
def parseCommand : List Token → Option HostCommand
  | .name c :: rest =>
    if c = "ARM" then
      match rest with
      | [] => some ⟨0b0001#4, []⟩
      | _ => none
    else if c = "WRITE_WORD" then
      match rest with
      | [.nat n] => if n < 2 ^ 32 then some ⟨0b0010#4, [.nat n]⟩ else none
      | _ => none
    else if c = "ENC" then
      match rest with
      | .name r :: rest => do
        let k ← regNumber r
        match ← parseRecord rest with
        | (rec, []) => some ⟨0b1000#4 + BitVec.ofNat 4 k.val, [.record rec]⟩
        | _ => none
      | _ => none
    else if c = "WRITE_ALL" then
      match rest with
      | .openBrace :: rest => do
        match ← parseRegs 6 rest with
        | (entries, []) => (allSix entries).map fun ops => ⟨0b0011#4, ops⟩
        | _ => none
      | _ => none
    else if c = "WRITE_R4_R2" then
      match rest with
      | .openBrace :: rest => do
        match ← parseRegs 2 rest with
        | ([(4, r4), (2, r2)], []) => some ⟨0b0100#4, [.record r4, .record r2]⟩
        | _ => none
      | _ => none
    else none
  | _ => none

/-- The commands of a program's lines. An empty line has none. -/
def parseLines : List (List Token) → Option (List HostCommand)
  | [] => some []
  | [] :: ls => parseLines ls
  | l :: ls => do
    let c ← parseCommand l
    let cs ← parseLines ls
    return c :: cs

/-- Whether every command of a program can be decoded under the layout: no unknown and no repeated field
(30_encoding.md R53). -/
def allDecode (l : Layout) : List HostCommand → Bool
  | [] => true
  | c :: cs =>
    match decode l c with
    | .ok _ => allDecode l cs
    | .error _ => false

/-- A program's commands, or nothing if the textual form rejects it (30_encoding.md R53, 60_exceptions.md R91 (d)). -/
def parseProgram (l : Layout) (source : List Char) : Option (List HostCommand) := do
  let ts ← tokens false [] source
  let cs ← parseLines (tokenLines (dropInnerNewlines 0 ts))
  if allDecode l cs then some cs else none

end Sys2Proof.Machine
end

