-- ==== Sys2Proof/Machine/HostOps.lean ====
section
/-! DEFINITION. The host's side: the requests it issues, and its pseudo-commands, which expand into the block's
commands (42_sequencing.md R84). The host carries them out, not the block. -/

namespace Sys2Proof.Machine

/-- The host's requests become `rs`. -/
def setRequests (rs : List Request) (s : State) : State :=
  { s with host := { s.host with requests := rs } }

/-- The host's records become `r` (10_state.md R23). -/
def setRecords (r : Registers) (s : State) : State :=
  { s with host := { s.host with records := r } }

/-- The host issues a command next. -/
def issueNow (c : HostCommand) (s : State) : State :=
  setRequests (⟨.afterMicroSteps 0, .command c⟩ :: s.host.requests) s

/-- The host issues a program: its first command next, each later one when the one before it has completed
(60_exceptions.md R100 (a)). -/
def issueProgram (cs : List HostCommand) (s : State) : State :=
  match cs with
  | [] => s
  | c :: rest => issueNow c (setRequests (rest.map (fun c => ⟨.whenComplete, .command c⟩) ++ s.host.requests) s)

/-- `WRITE_ALL(Reg0..Reg5)` of the host's current records (42_sequencing.md R84). -/
def writeAllOf (r : Registers) : HostCommand :=
  encode (.writeAll r[0] r[1] r[2] r[3] r[4] r[5])

/-- `WRITE_R4_R2(Reg4, Reg2)` of the host's current records (42_sequencing.md R84). -/
def writeR4R2Of (r : Registers) : HostCommand :=
  encode (.writeR4R2 r[4] r[2])

/-- One field of one of the host's records is set. DESIGN CHOICE: it is set under any layout, also under one that does not
have the field, where 42_sequencing.md R84 gives the default layout's names only (log 33). -/
def setRegField (r : Registers) (k : RegIndex) (f : FieldName) (v : Nat) : Registers :=
  r.set k (setField r[k] f v)

/-- `Reg4.vco_power_down = 0` (42_sequencing.md R84). DESIGN CHOICE: under a layout without that field, a record that does
not list it counts as powered (log 33). -/
def vcoPowered (r : Registers) : Bool :=
  fieldValue r[4] "vco_power_down" == 0

/-- A field of Reg2 that `set_mode` may drive: driven or left, as an open Boolean of Config says (91 N9, log 10). -/
def setModeField (driven : Bool) (f : FieldName) (v : Nat) (r : Registers) : Registers :=
  if driven then setRegField r 2 f v else r

/-- The power-down fields `set_mode` sets to 1 or clears to 0: the VCO's, and the charge pump's, whose place in Reg2 is
open (42_sequencing.md R84, 91 N9, log 10). -/
def setPowerDown (v : Nat) (r : Registers) : Registers :=
  setModeField Config.modeDrivesThreeState "cp_three_state" v
    (setModeField Config.modeDrivesPowerDown "power_down" v (setRegField r 4 "vco_power_down" v))

/-- The fields `set_tuning` sets (42_sequencing.md R84). The low-noise code is open (91 N8, log 9). -/
def tuneFields (chargePump outputPower : Nat) (lowNoise : Bool) (r : Registers) : Registers :=
  setRegField
    (setRegField (setRegField r 2 "cp_current" chargePump) 4 "output_power" outputPower)
    2 "low_noise_spur" (Config.lowNoiseCode lowNoise)

/-- The host writes all its records if the VCO is powered, and otherwise nothing (42_sequencing.md R84). -/
def writeIfPowered (s : State) : State :=
  if vcoPowered s.host.records then issueNow (writeAllOf s.host.records) s else respond (.ok none) s

/-- `initialize`: the records become `DEFAULTS`, then ARM (42_sequencing.md R84, 70_reset_and_hazards.md R105). -/
def pseudoSetup (s : State) : State :=
  issueNow (encode .arm) (setRecords s.params.defaults s)

/-- `set_frequency` after the planner: its error goes back and nothing is issued (60_exceptions.md R88), or its records
are taken and written if the VCO is powered (42_sequencing.md R84). DESIGN CHOICE: a failed planning call leaves the host's
records as they were (log 34). -/
def pseudoSetFrequency (outcome : PlannerOutcome) (s : State) : State :=
  match outcome with
  | .failed e => raiseError e s
  | .planned r => writeIfPowered (setRecords r s)

/-- `set_output_enable` (42_sequencing.md R84). -/
def pseudoSetOutputEnable (on : Bool) (s : State) : State :=
  let r := setRegField s.host.records 4 "rf_out_en" on.toNat
  issueNow (writeR4R2Of r) (setRecords r s)

/-- `set_mode`: power-up clears the fields and writes all registers, power-down sets them and writes Reg4 and Reg2
(42_sequencing.md R84). -/
def pseudoSetMode (up : Bool) (s : State) : State :=
  let r := setPowerDown (!up).toNat s.host.records
  issueNow (if up then writeAllOf r else writeR4R2Of r) (setRecords r s)

/-- `set_tuning` (42_sequencing.md R84). -/
def pseudoSetTuning (chargePump outputPower : Nat) (lowNoise : Bool) (s : State) : State :=
  writeIfPowered (setRecords (tuneFields chargePump outputPower lowNoise s.host.records) s)

/-- A pseudo-command that needs an armed host: NoDevice otherwise (42_sequencing.md R84, 90_conflicts.md C3, log 24). -/
def ifHostArmed (s : State) (t : State) : State :=
  if s.block.armed then t else raiseError .noDevice s

/-- The host carries out a pseudo-command (42_sequencing.md R84). DESIGN CHOICE: under any layout, with the field names of
the default one (log 33). -/
def runPseudo (p : PseudoCommand) (s : State) : State :=
  match p with
  | .setup => pseudoSetup s
  | .setFrequency outcome => ifHostArmed s (pseudoSetFrequency outcome s)
  | .setOutputEnable on => ifHostArmed s (pseudoSetOutputEnable on s)
  | .setMode up => ifHostArmed s (pseudoSetMode up s)
  | .setTuning cp op low => ifHostArmed s (pseudoSetTuning cp op low s)

/-- The host gives a program text: its commands are issued, or it is refused as a whole (60_exceptions.md R91 (d)). -/
def runText (source : List Char) (s : State) : State :=
  match parseProgram s.params.layout source with
  | some cs => issueProgram cs s
  | none => refuse .malformedText s

/-- Whether a request reaches the block now: the block is idle, or no micro-step is to pass any more (log 2). -/
def isDue (busy : Bool) (r : Request) : Bool :=
  !busy || r.arrival == .afterMicroSteps 0

/-- One micro-step has passed for the request at the head of the queue (log 2). -/
def countDown : List Request → List Request
  | ⟨.afterMicroSteps (n + 1), a⟩ :: rest => ⟨.afterMicroSteps n, a⟩ :: rest
  | rs => rs

/-- The writer's turn, while a burst runs (60_exceptions.md R100 (b)). Otherwise nothing is left to do (log 14). -/
def writerTurn (s : State) : Turn :=
  match s.block.busy, s.block.job with
  | true, some j => .writer j (setRequests (countDown s.host.requests) s)
  | _, _ => .idle

/-- Whose turn it is. A recorded fault stops the block (60_exceptions.md R90). A request that is due arrives;
otherwise the writer moves (R100). -/
def turn (s : State) : Turn :=
  match s.block.faults with
  | f :: _ => .stopped f
  | [] =>
    match s.host.requests with
    | [] => writerTurn s
    | r :: rest => if isDue s.block.busy r then .host r.action (setRequests rest s) else writerTurn s

end Sys2Proof.Machine
end

