-- ==== Sys2Proof/Machine/Commands.lean ====
section
/-! DEFINITION. A request of the host reaches the block: decoding a command, and running what it decodes to. -/

namespace Sys2Proof.Machine

/-- A command arrives at the port: refused by the decoder, or run (60_exceptions.md R93). -/
def runCommand (c : HostCommand) (s : State) : Host.Outcome State Fault Refusal :=
  match decode s.params.layout c with
  | .ok i => exec i s
  | .error e => .next (refuse (.command e) s)

/-- What the host does at its turn. -/
def runAction (a : HostAction) (s : State) : Host.Outcome State Fault Refusal :=
  match a with
  | .command c => runCommand c s
  | .text source => .next (runText source s)
  | .pseudo p => .next (runPseudo p s)

/-- One turn of the machine. An idle block with nothing asked of it stays as it is (log 14). -/
def runTurn (s : State) : Host.Outcome State Fault Refusal :=
  match turn s with
  | .stopped f => .fault f
  | .host a s => runAction a s
  | .writer j s => .next (microStep j s)
  | .idle => .next s

/-- The state with a command placed where the next step takes it: at the head of the host's requests, to arrive at once
(log 2). -/
def placeCommand (c : HostCommand) (s : State) : State :=
  issueNow c s

end Sys2Proof.Machine
end

