-- ==== Sys2Proof/Machine/Step.lean ====
section
/-! DEFINITION. One step of the machine: the arrival of a request of the host, or a micro-step of the writer
(60_exceptions.md R100). -/

namespace Sys2Proof.Machine

/-- One step. -/
def step (s : State) : Host.Outcome State Fault Refusal :=
  runTurn s

/-- The state with the opcode table's word as the command that the next step runs, its operands zero (log 2, log 26). -/
def State.withFetchWord (s : State) (nbits w : Nat) : State :=
  placeCommand (tableCommand nbits w) s

end Sys2Proof.Machine
end

