-- ==== Sys2Proof/Safety.lean ====
section
/-! DEFINITION. The terms that claims use: a block that is ready, a finished run, the invariants of the block, and the
rules a trace of pin events must meet. -/

namespace Sys2Proof.Machine

/-- The configuration has a meaning and the block holds no fault, so that commands are performed
(60_exceptions.md R90, R91 (b)). -/
abbrev Live (s : State) : Prop :=
  s.block.faults = [] ∧ layoutWellFormed s.params.layout

/-- An armed, idle block: a writer command is accepted (60_exceptions.md R93). -/
abbrev Ready (s : State) : Prop :=
  Live s ∧ s.block.busy = false ∧ s.block.armed = true

/-- A run is over and counts as one that ran: nothing is asked or in progress, no fault (60_exceptions.md R90) and no
refusal (R91). -/
abbrev Finished (s : State) : Prop :=
  s.block.faults = [] ∧ s.block.busy = false ∧ s.host.requests = [] ∧ s.refused = false

/-- No request reaches the block now, so that the writer moves (60_exceptions.md R100). -/
abbrev NoneDue (s : State) : Prop :=
  ∀ r ∈ s.host.requests.head?, isDue s.block.busy r = false

/-- The writer is about to take a micro-step of the job `j`. -/
abbrev WriterMoves (s : State) (j : Job) : Prop :=
  s.block.faults = [] ∧ s.block.busy = true ∧ s.block.job = some j ∧ NoneDue s

/-- The command `c` is what reaches the block next, and `rest` are the requests after it (60_exceptions.md R100). -/
abbrev Arrives (s : State) (c : HostCommand) (rest : List Request) : Prop :=
  s.block.faults = [] ∧
    ∃ a, s.host.requests = ⟨a, .command c⟩ :: rest ∧ isDue s.block.busy ⟨a, .command c⟩ = true

/-- A command that writes: WRITE_WORD, WRITE_ALL or WRITE_R4_R2 (60_exceptions.md R86). -/
def isWriter : Instr → Bool
  | .arm => false
  | .writeWord _ => true
  | .writeAll _ _ _ _ _ _ => true
  | .writeR4R2 _ _ => true
  | .encR0 _ => false
  | .encR1 _ => false
  | .encR2 _ => false
  | .encR3 _ => false
  | .encR4 _ => false
  | .encR5 _ => false

/-- A command that encodes: ENC_R0 to ENC_R5, with its register and its record (30_encoding.md R52). -/
def encodes : Instr → Option (RegIndex × RegRecord)
  | .arm => none
  | .writeWord _ => none
  | .writeAll _ _ _ _ _ _ => none
  | .writeR4R2 _ _ => none
  | .encR0 r => some (0, r)
  | .encR1 r => some (1, r)
  | .encR2 r => some (2, r)
  | .encR3 r => some (3, r)
  | .encR4 r => some (4, r)
  | .encR5 r => some (5, r)

/-- The words a writer command sends, in order (41_serial_writer.md R66, 42_sequencing.md R81, R82). -/
def burstWords (l : Layout) : Instr → List Word
  | .arm => []
  | .writeWord w => [w]
  | .writeAll r0 r1 r2 r3 r4 r5 =>
    [encodeReg l 5 r5, encodeReg l 4 r4, encodeReg l 3 r3, encodeReg l 2 r2, encodeReg l 1 r1, encodeReg l 0 r0]
  | .writeR4R2 r4 r2 => [encodeReg l 4 r4, encodeReg l 2 r2]
  | .encR0 _ => []
  | .encR1 _ => []
  | .encR2 _ => []
  | .encR3 _ => []
  | .encR4 _ => []
  | .encR5 _ => []

/-- The invariants of `busy` (10_state.md R18), and no word waits while no job runs (R20). -/
abbrev BusyInv (s : State) : Prop :=
  (s.block.busy = true ↔ s.block.job ≠ none) ∧
    (s.block.busy = true → s.block.armed = true) ∧
    (s.block.job = none → s.block.pending = [])

/-- The level of CLK at the start of a phase (41_serial_writer.md R75). -/
def phaseClk : Phase → Level
  | .setup => .low
  | .rise => .low
  | .fall => .high
  | .release => .low
  | .latchHigh => .low
  | .latchLow => .low

/-- The level of LE at the start of a phase (41_serial_writer.md R75). -/
def phaseLe : Phase → Level
  | .setup => .low
  | .rise => .low
  | .fall => .low
  | .release => .low
  | .latchHigh => .low
  | .latchLow => .high

/-- What the pins are while a job runs (41_serial_writer.md R75 (a) to (c)): CLK and LE by the phase, DATA at the bit's
level from Setup to Fall; the latch pulse comes after bit 0 (R72), and Release is a phase under DriveLow only (R70). -/
abbrev JobPins (release : DataRelease) (ps : Pins) (j : Job) : Prop :=
  ps.clk = some (phaseClk j.phase) ∧ ps.le = some (phaseLe j.phase) ∧
    (j.phase = .rise ∨ j.phase = .fall → ps.data = some (bitLevel (j.word.getLsbD j.bit.val))) ∧
    (j.phase = .latchHigh ∨ j.phase = .latchLow → j.bit = 0) ∧
    (j.phase = .release → release = .driveLow)

/-- The pin invariants of an armed block (41_serial_writer.md R75, 70_reset_and_hazards.md R108): CS keeps the level ARM
gave it, DATA has been driven, CLK and LE are Low when idle, and `JobPins` holds while a job runs. -/
abbrev PinInv (s : State) : Prop :=
  s.block.armed = true →
    s.block.pins.cs = some s.params.csActive ∧ s.block.pins.data ≠ none ∧
    (s.block.job = none → s.block.pins.clk = some .low ∧ s.block.pins.le = some .low) ∧
    ∀ j ∈ s.block.job, JobPins s.params.dataRelease s.block.pins j

/-- The level of a pin's last event in a trace, from a level before it (10_state.md R22). -/
def lastLevel (p : Pin) : Option Level → List Event → Option Level
  | v, [] => v
  | v, .wait :: es => lastLevel p v es
  | v, .pin q u :: es => lastLevel p (if q = p then some u else v) es

/-- Every pin holds the level of its last event in the trace (10_state.md R22). -/
abbrev PinsFollowTrace (s : State) : Prop :=
  ∀ p, pinLevel s.block.pins p = lastLevel p none s.block.trace

/-- The receiver is what the trace makes of it, from the unknown (60_exceptions.md R100 (c), 41_serial_writer.md
R76). -/
abbrev RxFollowsTrace (s : State) : Prop :=
  replay s.params.rxCommitEdge s.block.trace (Block.reset.pins, RxState.reset) = (s.block.pins, s.rx)

/-- Every Pin event is followed at once by exactly one Wait (41_serial_writer.md R74). -/
def pinsWait : List Event → Bool
  | [] => true
  | .pin _ _ :: .wait :: es => pinsWait es
  | .pin _ _ :: _ => false
  | .wait :: _ => false

/-- No edge of CLK while LE is High (41_serial_writer.md R75 (b)), along a trace from given pin levels. -/
def clockQuietWhileLatched : Pins → List Event → Bool
  | _, [] => true
  | ps, .wait :: es => clockQuietWhileLatched ps es
  | ps, .pin p v :: es =>
    (!(p == .clk && ps.clk != some v && ps.le == some .high)) && clockQuietWhileLatched (setPin ps v p) es

/-- No change of DATA while CLK is High (41_serial_writer.md R75 (c), 70_reset_and_hazards.md R107), along a trace from
given pin levels. -/
def dataStableWhileClockHigh : Pins → List Event → Bool
  | _, [] => true
  | ps, .wait :: es => dataStableWhileClockHigh ps es
  | ps, .pin p v :: es =>
    (!(p == .data && ps.data != some v && ps.clk == some .high)) && dataStableWhileClockHigh (setPin ps v p) es

/-- The trace keeps the rules of the serial interface: a Wait after every pin event, no clock edge while LE is High, no
change of DATA while CLK is High (70_reset_and_hazards.md R106, R107, 41_serial_writer.md R75). -/
abbrev TraceClean (s : State) : Prop :=
  pinsWait s.block.trace = true ∧
    clockQuietWhileLatched Block.reset.pins s.block.trace = true ∧
    dataStableWhileClockHigh Block.reset.pins s.block.trace = true

/-- The levels of DATA at the rising clock edges of a trace, in order: the bits the receiver shifts in. -/
def clockedLevels : Pins → List Event → List (Option Level)
  | _, [] => []
  | ps, .wait :: es => clockedLevels ps es
  | ps, .pin p v :: es =>
    (if p = .clk ∧ v = .high ∧ ps.clk = some .low then [ps.data] else []) ++ clockedLevels (setPin ps v p) es

/-- The block is in one of the states a run can reach: `busy` and the job agree, the pins are as the phase says, and
the pins, the receiver and the trace tell one story. -/
abbrev MachineInv (s : State) : Prop :=
  BusyInv s ∧ PinInv s ∧ PinsFollowTrace s ∧ RxFollowsTrace s ∧ TraceClean s

/-- The number of Wait events of a trace (70_reset_and_hazards.md R113). -/
def waits (es : List Event) : Nat :=
  es.count .wait

/-- The least time a trace takes, in the unit of `T_STEP` (70_reset_and_hazards.md R113). -/
def leastTime (es : List Event) : Nat :=
  waits es * Config.tStep

/-- The state after the burst of the words `w` and `ws` has been sent from `s`: the events of every word in order, the
pins and the receiver as those events leave them, the block idle, and Ok returned to the host
(41_serial_writer.md R73, R74; 42_sequencing.md R81). -/
def afterBurst (s : State) (w : Word) (ws : List Word) : State :=
  let es := burstTrace s.params.dataRelease (w :: ws)
  let after := replay s.params.rxCommitEdge es (s.block.pins, s.rx)
  { s with
    block := { s.block with
      busy := false, job := none, pending := [], pins := after.1, trace := s.block.trace ++ es }
    rx := after.2
    host := { s.host with responses := s.host.responses ++ [.ok none] } }

/-- The command returns Ok with the word `w`, at once, and nothing else of the state changes (40_encoder.md R57,
60_exceptions.md R85 (a)). -/
abbrev Returns (i : Instr) (s : State) (w : Word) : Prop :=
  exec i s = .next { s with host := { s.host with responses := s.host.responses ++ [.ok (some w)] } }

/-- The command is the fault Overlap: it is recorded and nothing else of the block changes, and the machine takes no
further step (60_exceptions.md R89, R90). -/
abbrev Overlaps (i : Instr) (s : State) : Prop :=
  ∃ t, exec i s = .next t ∧
    t = { s with
      block := { s.block with faults := [.overlap] }
      host := { s.host with responses := s.host.responses ++ [.fault .overlap] } } ∧
    step t = .fault .overlap

/-- The command returns the error NoDevice: every element of the block is unchanged (60_exceptions.md R87). -/
abbrev ReturnsNoDevice (i : Instr) (s : State) : Prop :=
  exec i s = .next { s with host := { s.host with responses := s.host.responses ++ [.error .noDevice] } }

/-- The state with a burst accepted: `busy`, the first word in `job`, the others in `pending`
(41_serial_writer.md R66, 42_sequencing.md R81). -/
abbrev withBurst (s : State) (w : Word) (ws : List Word) : State :=
  { s with block := { s.block with
      busy := true, job := some { word := w, bit := 31, phase := .setup }, pending := ws } }

/-- The state after a micro-step that drives the pin `p` to `v`, waits, and leaves the job `j`: one micro-step has
passed for the host's next request (41_serial_writer.md R67 to R72). -/
abbrev afterMicro (s : State) (p : Pin) (v : Level) (j : Option Job) : State :=
  { s with
    block := { s.block with
      job := j, pins := setPin s.block.pins v p, trace := s.block.trace ++ [.pin p v, .wait] }
    rx := rxOnPin s.params.rxCommitEdge s.block.pins p v s.rx
    host := { s.host with requests := countDown s.host.requests } }

/-- The machine reaches `t` from `s` in `n` steps, none of which stops. -/
abbrev Reaches (n : Nat) (s t : State) : Prop :=
  Host.Core.run core n s = .next t

end Sys2Proof.Machine
end

