-- ==== Sys2Proof/Certificates/Slice0/Obligations.lean ====
section
/-! DEFINITION. The statements of this row: what the spec's numbered rules say the machine does. -/

open Sys2Proof Sys2Proof.Machine

/-! ### The encoder: 40_encoder.md -/

/-- R59, ENC_R0: the command code, the word of the rule's pseudocode for every record, its reserved bit, and the rule's
corner cases and example. Completion of `encR0`. -/
def Obligations.EncR0ReturnsItsWord : Prop :=
  ∀ (s : State) (r : RegRecord), Live s → s.params.layout = defaultLayout →
    let w := BitVec.ofNat 32 (0 ||| ((fieldValue r "frac" % 2 ^ 12) <<< 3) ||| ((fieldValue r "int" % 2 ^ 16) <<< 15))
    encode (.encR0 r) = ⟨0b1000#4, [.record r]⟩ ∧
    Returns (.encR0 r) s w ∧ w.getLsbD 31 = false ∧
    Returns (.encR0 [("int", 65536)]) s 0x00000000#32 ∧
    Returns (.encR0 [("int", 65537), ("frac", 4101)]) s 0x00008028#32 ∧
    Returns (.encR0 [("int", 65535), ("frac", 4095)]) s 0x7FFFFFF8#32 ∧
    Returns (.encR0 []) s 0x00000000#32 ∧
    Returns (.encR0 [("int", 96), ("frac", 0)]) s 0x00300000#32

/-- R60, ENC_R1: the command code, the word, its reserved bits, the corner cases and the examples. Completion of
`encR1`. -/
def Obligations.EncR1ReturnsItsWord : Prop :=
  ∀ (s : State) (r : RegRecord), Live s → s.params.layout = defaultLayout →
    let w := BitVec.ofNat 32
      (1 ||| ((fieldValue r "mod" % 2 ^ 12) <<< 3) ||| ((fieldValue r "phase" % 2 ^ 12) <<< 15) |||
        ((fieldValue r "prescaler" % 2) <<< 27) ||| ((fieldValue r "phase_adjust" % 2) <<< 28))
    encode (.encR1 r) = ⟨0b1001#4, [.record r]⟩ ∧
    Returns (.encR1 r) s w ∧ w &&& 0xE0000000#32 = 0#32 ∧
    Returns (.encR1 [("prescaler", 2)]) s 0x00000001#32 ∧
    Returns (.encR1 [("mod", 4095), ("phase", 4095), ("prescaler", 3), ("phase_adjust", 1)]) s 0x1FFFFFF9#32 ∧
    Returns (.encR1 [("mod", 4096)]) s 0x00000001#32 ∧
    Returns (.encR1 [("mod", 2), ("phase", 1), ("prescaler", 0), ("phase_adjust", 0)]) s 0x00008011#32 ∧
    Returns (.encR1 [("mod", 2), ("phase", 0), ("prescaler", 0), ("phase_adjust", 0)]) s 0x00000011#32

/-- R61, ENC_R2: the command code, the word of the thirteen fields, its reserved bit, the corner cases and the example.
Completion of `encR2`. -/
def Obligations.EncR2ReturnsItsWord : Prop :=
  ∀ (s : State) (r : RegRecord), Live s → s.params.layout = defaultLayout →
    let w := BitVec.ofNat 32
      (2 ||| ((fieldValue r "counter_reset" % 2) <<< 3) ||| ((fieldValue r "cp_three_state" % 2) <<< 4) |||
        ((fieldValue r "power_down" % 2) <<< 5) ||| ((fieldValue r "pd_polarity" % 2) <<< 6) |||
        ((fieldValue r "ldp" % 2) <<< 7) ||| ((fieldValue r "ldf" % 2) <<< 8) |||
        ((fieldValue r "cp_current" % 2 ^ 4) <<< 9) ||| ((fieldValue r "double_buffer" % 2) <<< 13) |||
        ((fieldValue r "r_counter" % 2 ^ 10) <<< 14) ||| ((fieldValue r "rdiv2" % 2) <<< 24) |||
        ((fieldValue r "ref_doubler" % 2) <<< 25) ||| ((fieldValue r "muxout" % 2 ^ 3) <<< 26) |||
        ((fieldValue r "low_noise_spur" % 2 ^ 2) <<< 29))
    encode (.encR2 r) = ⟨0b1010#4, [.record r]⟩ ∧
    Returns (.encR2 r) s w ∧ w.getLsbD 31 = false ∧
    Returns (.encR2 [("r_counter", 1024)]) s 0x00000002#32 ∧
    Returns (.encR2 [("r_counter", 1023), ("rdiv2", 1)]) s 0x01FFC002#32 ∧
    Returns (.encR2 [("counter_reset", 1), ("cp_three_state", 1), ("power_down", 1), ("pd_polarity", 1), ("ldp", 1),
      ("ldf", 1), ("cp_current", 15), ("double_buffer", 1), ("r_counter", 1023), ("rdiv2", 1), ("ref_doubler", 1),
      ("muxout", 7), ("low_noise_spur", 3)]) s 0x7FFFFFFA#32 ∧
    Returns (.encR2 [("low_noise_spur", 3)]) s 0x60000002#32 ∧
    Returns (.encR2 [("r_counter", 1), ("cp_current", 7), ("ldf", 1), ("pd_polarity", 1)]) s 0x00004F42#32

/-- R62, ENC_R3: the command code, the word, its reserved bits, the corner cases and the example. Completion of
`encR3`. -/
def Obligations.EncR3ReturnsItsWord : Prop :=
  ∀ (s : State) (r : RegRecord), Live s → s.params.layout = defaultLayout →
    let w := BitVec.ofNat 32
      (3 ||| ((fieldValue r "clk_div" % 2 ^ 12) <<< 3) ||| ((fieldValue r "clk_div_mode" % 4) <<< 15) |||
        ((fieldValue r "csr" % 2) <<< 18) ||| ((fieldValue r "charge_cancel" % 2) <<< 21) |||
        ((fieldValue r "abp" % 2) <<< 22) ||| ((fieldValue r "band_select_clk_mode" % 2) <<< 23))
    encode (.encR3 r) = ⟨0b1011#4, [.record r]⟩ ∧
    Returns (.encR3 r) s w ∧ w &&& 0xFF1A0000#32 = 0#32 ∧
    Returns (.encR3 [("clk_div", 4095), ("clk_div_mode", 3), ("csr", 1), ("charge_cancel", 1), ("abp", 1),
      ("band_select_clk_mode", 1)]) s 0x00E5FFFB#32 ∧
    Returns (.encR3 []) s 0x00000003#32 ∧
    Returns (.encR3 [("clk_div", 150)]) s 0x000004B3#32

/-- R63, ENC_R4: the command code, the word of the ten fields, its reserved bits, the corner cases and the examples.
Completion of `encR4`. -/
def Obligations.EncR4ReturnsItsWord : Prop :=
  ∀ (s : State) (r : RegRecord), Live s → s.params.layout = defaultLayout →
    let w := BitVec.ofNat 32
      (4 ||| ((fieldValue r "output_power" % 2 ^ 2) <<< 3) ||| ((fieldValue r "rf_out_en" % 2) <<< 5) |||
        ((fieldValue r "aux_output_power" % 2 ^ 2) <<< 6) ||| ((fieldValue r "aux_out_en" % 2) <<< 8) |||
        ((fieldValue r "aux_out_sel" % 2) <<< 9) ||| ((fieldValue r "mtld" % 2) <<< 10) |||
        ((fieldValue r "vco_power_down" % 2) <<< 11) ||| ((fieldValue r "band_select_clk_div" % 2 ^ 8) <<< 12) |||
        ((fieldValue r "rf_div_sel" % 2 ^ 3) <<< 20) ||| ((fieldValue r "feedback_sel" % 2) <<< 23))
    encode (.encR4 r) = ⟨0b1100#4, [.record r]⟩ ∧
    Returns (.encR4 r) s w ∧ w &&& 0xFF000000#32 = 0#32 ∧
    Returns (.encR4 [("rf_div_sel", 4)]) s 0x00400004#32 ∧
    Returns (.encR4 [("rf_div_sel", 8)]) s 0x00000004#32 ∧
    Returns (.encR4 [("band_select_clk_div", 256)]) s 0x00000004#32 ∧
    Returns (.encR4 [("output_power", 3), ("rf_out_en", 1), ("aux_output_power", 3), ("aux_out_en", 1),
      ("aux_out_sel", 1), ("mtld", 1), ("vco_power_down", 1), ("band_select_clk_div", 255), ("rf_div_sel", 7),
      ("feedback_sel", 1)]) s 0x00FFFFFC#32 ∧
    Returns (.encR4 [("feedback_sel", 1), ("band_select_clk_div", 200), ("rf_out_en", 1), ("output_power", 3)]) s
      0x008C803C#32 ∧
    Returns (.encR4 [("feedback_sel", 1), ("band_select_clk_div", 200), ("vco_power_down", 1), ("rf_out_en", 0),
      ("output_power", 0)]) s 0x008C8804#32

/-- R64, ENC_R5: the command code, the word, its reserved bits, the corner cases and the example. Completion of
`encR5`. -/
def Obligations.EncR5ReturnsItsWord : Prop :=
  ∀ (s : State) (r : RegRecord), Live s → s.params.layout = defaultLayout →
    let w := BitVec.ofNat 32
      (5 ||| ((fieldValue r "reserved_20_19" % 4) <<< 19) ||| ((fieldValue r "ld_pin_mode" % 4) <<< 22))
    encode (.encR5 r) = ⟨0b1101#4, [.record r]⟩ ∧
    Returns (.encR5 r) s w ∧ w &&& 0xFF27FFF8#32 = 0#32 ∧
    Returns (.encR5 []) s 0x00000005#32 ∧
    Returns (.encR5 [("reserved_20_19", 3), ("ld_pin_mode", 3)]) s 0x00D80005#32 ∧
    Returns (.encR5 [("reserved_20_19", 3), ("ld_pin_mode", 1)]) s 0x00580005#32

/-- R54: ENC(k, r) is the index OR'd with every field's masked and shifted value; for a well-formed layout the result is
below 2^32, so the word holds it. -/
def Obligations.EncodeIsIndexOrFields : Prop :=
  ∀ (l : Layout) (k : RegIndex) (r : RegRecord),
    let terms := (layoutFields l k).map fun f => (fieldValue r f.name % 2 ^ f.width) <<< f.lsb
    encodeNat l k r = k.val ||| terms.foldr (· ||| ·) 0 ∧
    (layoutWellFormed l → encodeNat l k r < 2 ^ 32 ∧ (encodeReg l k r).toNat = encodeNat l k r)

/-- The OR of ENC equals the sum of its terms, because the fields are disjoint: R54's last sentence, which the spec
marks "[derived: from 30_encoding.md rule R40 (b)-(d)]". -/
def Obligations.EncodeSumsItsTerms : Prop :=
  ∀ (l : Layout) (k : RegIndex) (r : RegRecord), layoutWellFormed l →
    (encodeReg l k r).toNat =
      k.val + ((layoutFields l k).map fun f => (fieldValue r f.name % 2 ^ f.width) <<< f.lsb).sum

/-- R55: bits [2:0] of ENC(k, r) are k for every record, so ENC produces only the indices 0 to 5. -/
def Obligations.EncodeKeepsIndexBits : Prop :=
  ∀ (l : Layout) (k : RegIndex) (r : RegRecord), layoutWellFormed l →
    (encodeReg l k r).toNat % 2 ^ 3 = k.val ∧ indexOf (encodeReg l k r) = k.val ∧ indexOf (encodeReg l k r) ≤ 5

/-- R56, truncation: a value of any size is cut to the field's low bits without an error, so the encode command returns
the same word for `v` and for `v mod 2^w`. -/
def Obligations.EncodeTruncatesSilently : Prop :=
  ∀ (s : State) (i j : Instr) (k : RegIndex) (r : RegRecord) (f : Field) (v : Nat), Live s →
    f ∈ layoutFields s.params.layout k →
    encodes i = some (k, setField r f.name v) → encodes j = some (k, setField r f.name (v % 2 ^ f.width)) →
    ∃ w, Returns i s w ∧ Returns j s w ∧ slice w f.lsb f.width = v % 2 ^ f.width

/-- The laws of ENC, which the spec marks "following from rule R54 [derived: from rule R54 and 30_encoding.md rule
R40]": field recovery (a), uncovered bits (b), the zero record (c), injectivity (d), distinct registers (e) and no
carries (f), for every well-formed layout. -/
def Obligations.EncoderLaws : Prop :=
  ∀ (l : Layout) (k : RegIndex) (r : RegRecord), layoutWellFormed l →
    (∀ f ∈ layoutFields l k, slice (encodeReg l k r) f.lsb f.width = fieldValue r f.name % 2 ^ f.width) ∧
    (∀ i, 3 ≤ i → (∀ f ∈ layoutFields l k, ¬ (f.lsb ≤ i ∧ i < f.lsb + f.width)) →
      (encodeReg l k r).getLsbD i = false) ∧
    ((∀ f ∈ layoutFields l k, fieldValue r f.name = 0) → encodeReg l k r = BitVec.ofNat 32 k.val) ∧
    (∀ q : RegRecord, encodeReg l k r = encodeReg l k q ↔
      ∀ f ∈ layoutFields l k, fieldValue r f.name % 2 ^ f.width = fieldValue q f.name % 2 ^ f.width) ∧
    (∀ (j : RegIndex) (q : RegRecord), k ≠ j → encodeReg l k r ≠ encodeReg l j q) ∧
    (∀ f ∈ layoutFields l k, ∀ (v i : Nat), ¬ (f.lsb ≤ i ∧ i < f.lsb + f.width) →
      (encodeReg l k (setField r f.name v)).getLsbD i = (encodeReg l k r).getLsbD i)

/-- R57, purity: two live states with the same layout, busy or not, armed or not, answer an encode command with the same
word and without a fault, and the answer is all that changes: no pin, no event, no other state. -/
def Obligations.EncodeReadsOnlyItsOperand : Prop :=
  ∀ (i : Instr) (k : RegIndex) (r : RegRecord), encodes i = some (k, r) →
    ∀ s u : State, Live s → Live u → s.params.layout = u.params.layout → ∃ w, Returns i s w ∧ Returns i u w

/-! ### The serial writer: 41_serial_writer.md -/

/-- R65, ARM: Overlap while busy; otherwise, armed already or not, the four drives in order with their waits, `armed`
set, and Ok. It clears no fault and sends no word: unless LE was High, the receiver sees nothing. Completion of `arm`.
-/
def Obligations.ArmDrivesTheFourPins : Prop :=
  ∀ s : State, Live s →
    let es : List Event := [.pin .cs s.params.csActive, .wait, .pin .le .low, .wait, .pin .clk .low, .wait,
      .pin .data .low, .wait]
    encode .arm = ⟨0b0001#4, []⟩ ∧
    (s.block.busy = true → Overlaps .arm s) ∧
    (s.block.busy = false → ∃ t,
      exec .arm s = .next t ∧
      t = { s with
        block := { s.block with
          armed := true
          pins := ⟨some s.params.csActive, some .low, some .low, some .low⟩
          trace := s.block.trace ++ es }
        rx := (replay s.params.rxCommitEdge es (s.block.pins, s.rx)).2
        host := { s.host with responses := s.host.responses ++ [.ok none] } } ∧
      (s.block.pins.le ≠ some .high → t.rx = s.rx) ∧
      clockedLevels s.block.pins es = [])

/-- R66, WRITE_WORD: the checks in order, the acceptance, and the completion with Ok when the host asks nothing more
meanwhile; any word is sent unchanged. The example: 0x00580005 adds 196 events under Hold and leaves `reg[5]` holding
it. Completion of `writeWord`. -/
def Obligations.WriteWordSendsTheWord : Prop :=
  ∀ (s : State) (w : Word), Live s →
    encode (.writeWord w) = ⟨0b0010#4, [.nat w.toNat]⟩ ∧
    (s.block.busy = true → Overlaps (.writeWord w) s) ∧
    (s.block.busy = false → s.block.armed = false → ReturnsNoDevice (.writeWord w) s) ∧
    (s.block.busy = false → s.block.armed = true →
      exec (.writeWord w) s = .next (withBurst s w []) ∧
      (s.host.requests = [] →
        Reaches (wordSteps s.params.dataRelease) (withBurst s w []) (afterBurst s w []) ∧
        (s.params.dataRelease = .hold → s.block.job = none → PinInv s → w = 0x00580005#32 →
          (afterBurst s w []).block.trace.length = s.block.trace.length + 196 ∧
          (afterBurst s w []).rx.reg[5] = some 0x00580005#32)))

/-- R67, the Setup step: DATA takes the bit's level, one Wait, and the phase becomes Rise. The receiver does not
change. -/
def Obligations.SetupPutsTheBitOnData : Prop :=
  ∀ (s : State) (j : Job), WriterMoves s j → j.phase = .setup →
    ∃ t, step s = .next t ∧
      t = afterMicro s .data (if j.word.getLsbD j.bit.val = true then .high else .low) (some { j with phase := .rise }) ∧
      t.rx = s.rx

/-- R68, the Rise step: CLK goes High, one Wait, and the phase becomes Fall. DATA is not changed. -/
def Obligations.RiseRaisesTheClock : Prop :=
  ∀ (s : State) (j : Job), WriterMoves s j → j.phase = .rise →
    ∃ t, step s = .next t ∧ t = afterMicro s .clk .high (some { j with phase := .fall }) ∧
      t.block.pins.data = s.block.pins.data

/-- R69, the Fall step: CLK goes Low, one Wait; then Release under DriveLow, and NextBit otherwise. -/
def Obligations.FallLowersTheClock : Prop :=
  ∀ (s : State) (j : Job), WriterMoves s j → j.phase = .fall →
    (s.params.dataRelease = .driveLow →
      step s = .next (afterMicro s .clk .low (some { j with phase := .release }))) ∧
    (s.params.dataRelease = .hold → step s = .next (afterMicro s .clk .low (some (nextBit j))))

/-- R70, the Release step, under DriveLow: DATA goes Low, one Wait, and NextBit. Under Hold the step is never taken,
since no step brings a job into that phase, and DATA keeps its level until the next Setup, in every step but ARM's to
an idle block. -/
def Obligations.ReleaseDrivesDataLow : Prop :=
  (∀ (s : State) (j : Job), WriterMoves s j → j.phase = .release → s.params.dataRelease = .driveLow →
    step s = .next (afterMicro s .data .low (some (nextBit j)))) ∧
  (∀ s t : State, step s = .next t → s.params.dataRelease = .hold →
    (∀ j ∈ s.block.job, j.phase ≠ .release) →
    (∀ j ∈ t.block.job, j.phase ≠ .release) ∧
    ((∀ j ∈ s.block.job, j.phase ≠ .setup) →
      (s.block.busy = true ∨ ∀ c rest, Arrives s c rest → decode s.params.layout c ≠ .ok .arm) →
      t.block.pins.data = s.block.pins.data))

/-- R71, NextBit, as the Fall step under Hold calls it: the next lower bit's Setup, or LatchHigh after bit 0. -/
def Obligations.NextBitCountsDown : Prop :=
  ∀ (s : State) (j : Job), WriterMoves s j →
    (j.phase = .fall ∧ s.params.dataRelease = .hold ∨ j.phase = .release) →
    ∃ t k, step s = .next t ∧ t.block.job = some k ∧ k.word = j.word ∧
      (0 < j.bit.val → k.bit.val = j.bit.val - 1 ∧ k.phase = .setup) ∧
      (j.bit.val = 0 → k.bit = j.bit ∧ k.phase = .latchHigh)

/-- R72, the LatchHigh step: LE goes High, one Wait, and the phase becomes LatchLow. -/
def Obligations.LatchHighRaisesLatchEnable : Prop :=
  ∀ (s : State) (j : Job), WriterMoves s j → j.phase = .latchHigh →
    step s = .next (afterMicro s .le .high (some { j with phase := .latchLow }))

/-- R73, the LatchLow step: LE goes Low, one Wait; then the burst's next word begins at once at bit 31, or the command
completes: no job, not busy, and Ok to the host. -/
def Obligations.LatchLowEndsTheWord : Prop :=
  ∀ (s : State) (j : Job), WriterMoves s j → j.phase = .latchLow →
    (∀ w rest, s.block.pending = w :: rest →
      ∃ t, step s = .next t ∧
        t = { afterMicro s .le .low (some { word := w, bit := 31, phase := .setup }) with
          block := { (afterMicro s .le .low (some { word := w, bit := 31, phase := .setup })).block with
            pending := rest } }) ∧
    (s.block.pending = [] →
      ∃ t, step s = .next t ∧
        t = { afterMicro s .le .low none with
          block := { (afterMicro s .le .low none).block with busy := false }
          host := { (afterMicro s .le .low none).host with responses := s.host.responses ++ [.ok none] } })

/-- The events one word appends, from its first Setup to the Wait after its LatchLow, which the spec marks "[derived:
from rules R67 to R73]": for i = 31 down to 0 the bit's three pins and waits (four under DriveLow), then the latch
pulse; 98 or 130 Pin events and as many Wait events; every Pin event is followed at once by exactly one Wait. -/
def Obligations.OneWordAppendsItsTrace : Prop :=
  ∀ (s : State) (w : Word), WriterMoves s ⟨w, 31, .setup⟩ → s.host.requests = [] →
    ∃ t es, Reaches (wordSteps s.params.dataRelease) s t ∧ t.block.trace = s.block.trace ++ es ∧
      es = ((List.range 32).reverse.flatMap fun i =>
        ([.pin .data (if w.getLsbD i = true then .high else .low), .wait, .pin .clk .high, .wait, .pin .clk .low,
            .wait] : List Event) ++
          (if s.params.dataRelease = .driveLow then [.pin .data .low, .wait] else [])) ++
        [.pin .le .high, .wait, .pin .le .low, .wait] ∧
      (s.params.dataRelease = .hold → es.length = 196 ∧ waits es = 98) ∧
      (s.params.dataRelease = .driveLow → es.length = 260 ∧ waits es = 130) ∧
      pinsWait es = true

/-- A burst of any words, accepted by a ready block whose host asks nothing more, runs to its end in as many micro-steps
as its words have, and leaves exactly `afterBurst`. -/
def Obligations.EveryBurstRunsToItsEnd : Prop :=
  ∀ (s : State) (w : Word) (ws : List Word), Ready s → s.host.requests = [] →
    Reaches ((1 + ws.length) * wordSteps s.params.dataRelease) (withBurst s w ws) (afterBurst s w ws)

/-- The step keeps the invariant: `busy` and the job agree, the pins are as the phase says (41_serial_writer.md section
3), the pins and the receiver follow the trace, and the trace keeps the rules of the serial interface. -/
def Obligations.StepKeepsTheInvariant : Prop :=
  ∀ s t : State, MachineInv s → step s = .next t → MachineInv t

/-- The invariant holds at reset, whatever the parameters. -/
def Obligations.ResetMeetsTheInvariant : Prop :=
  ∀ p : Params, MachineInv (State.resetWith p)

/-- Serial interface timing (70_reset_and_hazards.md section 2) as properties of the trace: between any two Pin events
there is a Wait; DATA does not change while CLK is High, so that a change of it has a Wait before the next clock edge;
and CLK and LE are Low when a word starts. -/
def Obligations.TraceKeepsSerialTiming : Prop :=
  ∀ s t : State, MachineInv s → step s = .next t →
    (∀ (xs ys zs : List Event) (p q : Pin) (u v : Level),
      t.block.trace = xs ++ .pin p u :: (ys ++ .pin q v :: zs) → Event.wait ∈ ys) ∧
    (∀ (xs zs : List Event) (v : Level), t.block.trace = xs ++ .pin .data v :: zs →
      lastLevel .clk none xs = some .high → lastLevel .data none xs = some v) ∧
    (∀ j, t.block.job = some j → j.phase = .setup →
      t.block.pins.clk = some .low ∧ t.block.pins.le = some .low)

/-- R76, the reference receiver, event by event, as it reacts to what the machine drives: the shift on a rising clock
edge, the unknown edge, the commit, and no change otherwise. -/
def Obligations.ReceiverReactsToPinEvents : Prop :=
  ∀ (s : State) (p : Pin) (v : Level),
    let t := drive p v s
    let commits := p = .le ∧
      (s.params.rxCommitEdge = .rise ∧ s.block.pins.le = some .low ∧ v = .high ∨
        s.params.rxCommitEdge = .fall ∧ s.block.pins.le = some .high ∧ v = .low)
    (p = .clk → v = .high → s.block.pins.clk = some .low →
      t.rx.reg = s.rx.reg ∧ t.rx.sr[0] = s.block.pins.data.map (fun u => decide (u = .high)) ∧
      ∀ i (h : i + 1 < 32), t.rx.sr[i + 1] = s.rx.sr[i]) ∧
    (p = .clk → v = .high → s.block.pins.clk = none →
      t.rx.reg = s.rx.reg ∧ ∀ i (h : i < 32), t.rx.sr[i] = none) ∧
    (commits → t.rx.sr = s.rx.sr ∧
      (∀ w : Word, (∀ i (h : i < 32), s.rx.sr[i] = some (w.getLsbD i)) →
        (∀ h : w.toNat % 8 < 6, t.rx.reg = s.rx.reg.set (w.toNat % 8) (some w) h) ∧
        (6 ≤ w.toNat % 8 → ∀ k (h : k < 6), t.rx.reg[k] = none)) ∧
      ((∃ i, ∃ h : i < 32, s.rx.sr[i] = none) → ∀ k (h : k < 6), t.rx.reg[k] = none)) ∧
    (¬ (p = .clk ∧ v = .high ∧ s.block.pins.clk ≠ some .high) → ¬ commits → t.rx = s.rx)

/-- Delivery, which the spec marks "[derived: from rules R74, R75 and R76]": WRITE_WORD on an armed, idle block
completes, and then the receiver's shift register holds the word bit for bit, whatever it held before; a word of index
0 to 5 is in its register and every other entry is unchanged; a word of index 6 or 7 leaves every entry unknown. For
both commit edges and both releases. -/
def Obligations.WriteWordIsDelivered : Prop :=
  ∀ (s : State) (w : Word), Ready s → s.block.job = none → PinInv s → s.host.requests = [] →
    ∃ t u, exec (.writeWord w) s = .next t ∧ Reaches (wordSteps s.params.dataRelease) t u ∧
      u.block.busy = false ∧ u.host.responses = s.host.responses ++ [.ok none] ∧
      (∀ i (h : i < 32), u.rx.sr[i] = some (w.getLsbD i)) ∧
      (∀ h : w.toNat % 8 < 6, u.rx.reg = s.rx.reg.set (w.toNat % 8) (some w) h) ∧
      (6 ≤ w.toNat % 8 → ∀ k (h : k < 6), u.rx.reg[k] = none)

/-- R31, MSB first: the levels of DATA at the 32 rising clock edges of a word are its bits 31 down to 0, for both
releases. -/
def Obligations.WordGoesOutMsbFirst : Prop :=
  ∀ (s : State) (w : Word), Ready s → s.block.job = none → PinInv s → s.host.requests = [] →
    ∃ t u es, exec (.writeWord w) s = .next t ∧ Reaches (wordSteps s.params.dataRelease) t u ∧
      u.block.trace = s.block.trace ++ es ∧
      clockedLevels s.block.pins es =
        (List.range 32).reverse.map fun i => some (if w.getLsbD i = true then Level.high else Level.low)

/-- Sending the same word twice leaves the receiver as sending it once, and appends the same events twice
(20_memory.md section 2, 95_test_vectors.md V6). -/
def Obligations.SameWordTwiceIsIdempotent : Prop :=
  ∀ (s : State) (w : Word), Ready s → s.block.job = none → PinInv s → s.host.requests = [] →
    ∃ t u t' u' es, exec (.writeWord w) s = .next t ∧ Reaches (wordSteps s.params.dataRelease) t u ∧
      exec (.writeWord w) u = .next t' ∧ Reaches (wordSteps s.params.dataRelease) t' u' ∧
      u.block.trace = s.block.trace ++ es ∧ u'.block.trace = u.block.trace ++ es ∧ u'.rx = u.rx

/-- A writer command that was accepted always completes with Ok (41_serial_writer.md section 4): from every state in
which a job runs and the host asks nothing more, the machine is idle after a bounded number of steps, and Ok is the one
outcome it has returned. -/
def Obligations.AcceptedCommandAlwaysCompletes : Prop :=
  ∀ s : State, s.block.faults = [] → s.block.busy = true → s.block.job ≠ none → s.host.requests = [] →
    ∃ n t, n ≤ 131 * (1 + s.block.pending.length) ∧ Reaches n s t ∧ t.block.busy = false ∧ t.block.job = none ∧
      t.block.pending = [] ∧ t.block.faults = [] ∧ t.host.responses = s.host.responses ++ [.ok none]

/-! ### Bursts: 42_sequencing.md -/

/-- R81, WRITE_ALL: the checks, the acceptance of the six words in the order 5,4,3,2,1,0, and the completion: the six
word traces in that order (1176 or 1560 events) and Ok. The example is program P1's records. Completion of
`writeAll`. -/
def Obligations.WriteAllSendsSixWords : Prop :=
  ∀ (s : State) (r0 r1 r2 r3 r4 r5 : RegRecord), Live s →
    let i : Instr := .writeAll r0 r1 r2 r3 r4 r5
    let l := s.params.layout
    let w := encodeReg l 5 r5
    let ws := [encodeReg l 4 r4, encodeReg l 3 r3, encodeReg l 2 r2, encodeReg l 1 r1, encodeReg l 0 r0]
    let es := (w :: ws).flatMap (wordTrace s.params.dataRelease)
    (encode i).code = 0b0011#4 ∧
    (s.block.busy = true → Overlaps i s) ∧
    (s.block.busy = false → s.block.armed = false → ReturnsNoDevice i s) ∧
    (s.block.busy = false → s.block.armed = true →
      exec i s = .next (withBurst s w ws) ∧
      (s.host.requests = [] → ∃ t, Reaches (6 * wordSteps s.params.dataRelease) (withBurst s w ws) t ∧
        t.block.trace = s.block.trace ++ es ∧ t.block.busy = false ∧
        t.host.responses = s.host.responses ++ [.ok none])) ∧
    (s.params.dataRelease = .hold → es.length = 1176) ∧
    (s.params.dataRelease = .driveLow → es.length = 1560) ∧
    (l = defaultLayout → r5 = [("reserved_20_19", 3), ("ld_pin_mode", 1)] →
      r4 = [("feedback_sel", 1), ("band_select_clk_div", 200), ("rf_out_en", 1), ("output_power", 3)] →
      r3 = [("clk_div", 150)] → r2 = [("r_counter", 1), ("cp_current", 7), ("ldf", 1), ("pd_polarity", 1)] →
      r1 = [("mod", 2), ("phase", 1)] → r0 = [("int", 96)] →
      w :: ws = [0x00580005#32, 0x008C803C#32, 0x000004B3#32, 0x00004F42#32, 0x00008011#32, 0x00300000#32])

/-- R82, WRITE_R4_R2: the checks, the acceptance of Reg4's word and then Reg2's, and the completion: the two word traces
in that order (392 or 520 events) and Ok. The example is the powered-down Reg4 with program P1's Reg2. Completion of
`writeR4R2`. -/
def Obligations.WriteR4R2SendsTwoWords : Prop :=
  ∀ (s : State) (r4 r2 : RegRecord), Live s →
    let i : Instr := .writeR4R2 r4 r2
    let l := s.params.layout
    let w := encodeReg l 4 r4
    let ws := [encodeReg l 2 r2]
    let es := (w :: ws).flatMap (wordTrace s.params.dataRelease)
    (encode i).code = 0b0100#4 ∧
    (s.block.busy = true → Overlaps i s) ∧
    (s.block.busy = false → s.block.armed = false → ReturnsNoDevice i s) ∧
    (s.block.busy = false → s.block.armed = true →
      exec i s = .next (withBurst s w ws) ∧
      (s.host.requests = [] → ∃ t, Reaches (2 * wordSteps s.params.dataRelease) (withBurst s w ws) t ∧
        t.block.trace = s.block.trace ++ es ∧ t.block.busy = false ∧
        t.host.responses = s.host.responses ++ [.ok none])) ∧
    (s.params.dataRelease = .hold → es.length = 392) ∧
    (s.params.dataRelease = .driveLow → es.length = 520) ∧
    (l = defaultLayout → r4 = [("vco_power_down", 1), ("feedback_sel", 1), ("band_select_clk_div", 200)] →
      r2 = [("r_counter", 1), ("cp_current", 7), ("ldf", 1), ("pd_polarity", 1)] →
      w :: ws = [0x008C8804#32, 0x00004F42#32])

/-- Delivery of a burst, which the spec marks "[derived: from rule R81, rule R82 and 41_serial_writer.md rule R77]":
when WRITE_ALL completes, the receiver holds ENC(k, rk) in every register, and the words were committed in the order
5, 4, 3, 2, 1, 0; when WRITE_R4_R2 completes, registers 4 and 2 hold theirs and the other four are unchanged. -/
def Obligations.BurstIsDelivered : Prop :=
  ∀ (s : State) (r0 r1 r2 r3 r4 r5 : RegRecord), Ready s → s.block.job = none → PinInv s → s.host.requests = [] →
    let l := s.params.layout
    let word := wordTrace s.params.dataRelease
    (∃ t u, exec (.writeAll r0 r1 r2 r3 r4 r5) s = .next t ∧ Reaches (6 * wordSteps s.params.dataRelease) t u ∧
      u.block.busy = false ∧
      u.rx.reg = #v[some (encodeReg l 0 r0), some (encodeReg l 1 r1), some (encodeReg l 2 r2),
        some (encodeReg l 3 r3), some (encodeReg l 4 r4), some (encodeReg l 5 r5)] ∧
      u.block.trace = s.block.trace ++ word (encodeReg l 5 r5) ++ word (encodeReg l 4 r4) ++
        word (encodeReg l 3 r3) ++ word (encodeReg l 2 r2) ++ word (encodeReg l 1 r1) ++ word (encodeReg l 0 r0)) ∧
    (∃ t u, exec (.writeR4R2 r4 r2) s = .next t ∧ Reaches (2 * wordSteps s.params.dataRelease) t u ∧
      u.block.busy = false ∧
      u.rx.reg = #v[s.rx.reg[0], s.rx.reg[1], some (encodeReg l 2 r2), s.rx.reg[3], some (encodeReg l 4 r4),
        s.rx.reg[5]])

/-- R80, the snapshot: the words of a burst are computed from the operands at its acceptance, and changing the host's
records later changes neither `job` nor `pending`, nor any other part of the block, at any of the writer's steps. -/
def Obligations.BurstWordsAreFixedAtAcceptance : Prop :=
  (∀ (s : State) (i : Instr), Ready s → isWriter i = true →
    ∃ w ws, burstWords s.params.layout i = w :: ws ∧ exec i s = .next (withBurst s w ws)) ∧
  (∀ (s : State) (j : Job) (r : Registers), WriterMoves s j →
    ∃ t u, step s = .next t ∧ step { s with host := { s.host with records := r } } = .next u ∧ u.block = t.block)

/-- The host's pseudo-commands (42_sequencing.md section 3), at the step that carries each out: `initialize` takes
DEFAULTS and issues ARM; the others return NoDevice from an unarmed host; `set_frequency` returns the planner's error
and issues nothing, or takes the plan and issues WRITE_ALL if the VCO is powered and nothing otherwise;
`set_output_enable` sets Reg4.rf_out_en and issues WRITE_R4_R2; `set_mode` clears Reg4.vco_power_down and the charge
pump's field of Reg2 and issues WRITE_ALL on power-up, and sets them and issues WRITE_R4_R2 on power-down;
`set_tuning` sets Reg2.cp_current, Reg4.output_power and Reg2.low_noise_spur and issues WRITE_ALL if the VCO is
powered. Every other field of every record reads as before. The fields that the spec leaves open (91 N8, N9) are the
open constants of Config (log 9, 10). These are the model's choices: an issued command arrives at once (log 2), an
unarmed host's records stay as they are (log 24), the planner's outcome is an input (log 25), a failed planning call
leaves the records as they were (log 34), and the default layout's names are used under any layout (log 33). -/
def Obligations.PseudoCommandsExpand : Prop :=
  ∀ (s : State) (p : PseudoCommand) (a : Arrival) (rest : List Request), s.block.faults = [] →
    s.host.requests = ⟨a, .pseudo p⟩ :: rest → isDue s.block.busy ⟨a, .pseudo p⟩ = true →
    let old : Registers := s.host.records
    let returns (r : Registers) (x : Response) : State :=
      { s with host := ⟨r, rest, s.host.responses ++ [x]⟩ }
    let issues (r : Registers) (i : Instr) : State :=
      { s with host := ⟨r, ⟨.afterMicroSteps 0, .command (encode i)⟩ :: rest, s.host.responses⟩ }
    let all (r : Registers) : Instr := .writeAll r[0] r[1] r[2] r[3] r[4] r[5]
    let partialWrite (r : Registers) : Instr := .writeR4R2 r[4] r[2]
    let powered (r : Registers) : State :=
      if fieldValue r[4] "vco_power_down" = 0 then issues r (all r) else returns r (.ok none)
    let enabled (on : Bool) : Registers := setRegField old 4 "rf_out_en" (if on then 1 else 0)
    let vcoSet (v : Nat) : Registers := setRegField old 4 "vco_power_down" v
    let pumpSet (v : Nat) : Registers :=
      if Config.modeDrivesPowerDown = true then setRegField (vcoSet v) 2 "power_down" v else vcoSet v
    let modeSet (v : Nat) : Registers :=
      if Config.modeDrivesThreeState = true then setRegField (pumpSet v) 2 "cp_three_state" v else pumpSet v
    let tuned (cp op : Nat) (low : Bool) : Registers :=
      setRegField (setRegField (setRegField old 2 "cp_current" cp) 4 "output_power" op) 2 "low_noise_spur"
        (Config.lowNoiseCode low)
    step s = .next (
      match p with
      | .setup => issues s.params.defaults .arm
      | .setFrequency o =>
        if s.block.armed = false then returns old (.error .noDevice)
        else match o with
          | .failed e => returns old (.error e)
          | .planned r => powered r
      | .setOutputEnable on =>
        if s.block.armed = false then returns old (.error .noDevice)
        else issues (enabled on) (partialWrite (enabled on))
      | .setMode up =>
        if s.block.armed = false then returns old (.error .noDevice)
        else if up then issues (modeSet 0) (all (modeSet 0)) else issues (modeSet 1) (partialWrite (modeSet 1))
      | .setTuning cp op low =>
        if s.block.armed = false then returns old (.error .noDevice) else powered (tuned cp op low)) ∧
    (∀ (on : Bool) (k : RegIndex) (f : FieldName), fieldValue (enabled on)[k] f =
      if k = 4 ∧ f = "rf_out_en" then (if on then 1 else 0) else fieldValue old[k] f) ∧
    (∀ (v : Nat) (k : RegIndex) (f : FieldName), fieldValue (modeSet v)[k] f =
      if (k = 4 ∧ f = "vco_power_down") ∨ (k = 2 ∧ f = "power_down" ∧ Config.modeDrivesPowerDown = true) ∨
        (k = 2 ∧ f = "cp_three_state" ∧ Config.modeDrivesThreeState = true) then v
      else fieldValue old[k] f) ∧
    (∀ (cp op : Nat) (low : Bool) (k : RegIndex) (f : FieldName), fieldValue (tuned cp op low)[k] f =
      if k = 2 ∧ f = "cp_current" then cp
      else if k = 4 ∧ f = "output_power" then op
      else if k = 2 ∧ f = "low_noise_spur" then Config.lowNoiseCode low
      else fieldValue old[k] f)

/-! ### Errors, faults and refusals: 60_exceptions.md -/

/-- R87: a writer command to an idle, unarmed block returns NoDevice, with no event, every state element unchanged and
no fault; the host may issue another command at once (the block is as it was); ARM and the encode commands never raise
it. -/
def Obligations.UnarmedWriterGetsNoDevice : Prop :=
  (∀ (s : State) (i : Instr), Live s → s.block.busy = false → s.block.armed = false → isWriter i = true →
    ReturnsNoDevice i s) ∧
  (∀ (s t : State) (i : Instr), isWriter i = false → exec i s = .next t →
    t.host.responses ≠ s.host.responses ++ [.error .noDevice])

/-- R89: ARM or a writer command that reaches a busy block is the fault Overlap: recorded, not performed, and no further
step is taken, so the running command does not complete. An encode command is no overlap. -/
def Obligations.BusyBlockOverlaps : Prop :=
  ∀ (s : State) (i : Instr), Live s → s.block.busy = true →
    (encodes i = none → Overlaps i s) ∧
    (encodes i ≠ none → ∃ w, Returns i s w)

/-- R90: the fault set is a subset of {Overlap}; a command can only add Overlap, and only to a busy block; a fault
once recorded stays, and a state that holds one is not finished and takes no further step, for any command, ARM
included; only reset has none again. -/
def Obligations.FaultsAreSticky : Prop :=
  (∀ (s : State) (f : Fault), f ∈ s.block.faults → f = .overlap) ∧
  (∀ (s t : State) (i : Instr), exec i s = .next t →
    t.block.faults = s.block.faults ∨ (t.block.faults = [.overlap] ∧ s.block.busy = true ∧ encodes i = none)) ∧
  (∀ (n : Nat) (s t u : State) (f : Fault), step s = .next t → f ∈ t.block.faults → Reaches n t u →
    f ∈ u.block.faults) ∧
  (∀ (s : State) (i : Instr), s.block.faults ≠ [] →
    ¬ Finished s ∧ step s = .fault .overlap ∧ exec i s = .fault .overlap) ∧
  (∀ p : Params, (State.resetWith p).block.faults = [])

/-- Refusals (60_exceptions.md section 1): a reserved code, any command under a malformed layout, a WRITE_WORD operand
at or above 2^32, and a text the grammar rejects are each refused: the mark is set, the host is told, and nothing of
the block or the receiver changes. When a malformed layout shows, and that the machine goes on, are the model's
reading (log 12, 13). -/
def Obligations.RefusalsSetTheMark : Prop :=
  ∀ (s : State) (rest : List Request),
    let refused (t : State) : Prop :=
      t.refused = true ∧ t.block = s.block ∧ t.rx = s.rx ∧ t.params = s.params ∧ t.host.records = s.host.records ∧
        t.host.requests = rest ∧ ∃ r, t.host.responses = s.host.responses ++ [.refused r]
    (∀ c, Arrives s c rest →
      (reservedCode c.code ∨ ¬ layoutWellFormed s.params.layout ∨
        (c.code = 0b0010#4 ∧ ∃ n, 2 ^ 32 ≤ n ∧ c.operands = [.nat n])) →
      ∃ t, step s = .next t ∧ refused t) ∧
    (∀ a src, s.block.faults = [] → s.host.requests = ⟨a, .text src⟩ :: rest →
      isDue s.block.busy ⟨a, .text src⟩ = true → parseProgram s.params.layout src = none →
      ∃ t, step s = .next t ∧ refused t)

/-- R93: an arriving command is refused first, then Overlap, then NoDevice for writer commands only, then accepted; and
once a command is accepted, no later step of it raises an error or a fault. -/
def Obligations.ChecksAreMadeInOrder : Prop :=
  (∀ (s : State) (c : HostCommand) (rest : List Request), Arrives s c rest →
    layoutWellFormed s.params.layout → ∃ t, step s = .next t ∧
      match decode s.params.layout c with
      | .error e => t = refuse (.command e) { s with host := { s.host with requests := rest } }
      | .ok i =>
        let u : State := { s with host := { s.host with requests := rest } }
        if encodes i = none ∧ s.block.busy = true then t = raiseFault .overlap u
        else if isWriter i = true ∧ s.block.armed = false then t = raiseError .noDevice u
        else exec i u = .next t ∧ t.block.faults = [] ∧ t.refused = s.refused ∧
          ∀ e, t.host.responses ≠ s.host.responses ++ [.error e]) ∧
  (∀ (s : State) (j : Job), WriterMoves s j → ∃ t, step s = .next t ∧ t.block.faults = [] ∧
    (t.host.responses = s.host.responses ∨ t.host.responses = s.host.responses ++ [.ok none]))

/-- Planner errors (60_exceptions.md section 1): OutOfRange and InvalidConfiguration are never raised by the block: an
error other than NoDevice reaches the host only from its own planner, and then the step issues no command and changes
nothing else. The planner's outcome is an input of the model (log 25), and that the host's records stay as they were
is the model's choice (log 34). -/
def Obligations.PlannerErrorsAreNotTheBlocks : Prop :=
  ∀ (s t : State) (e : ErrorKind), step s = .next t → t.host.responses = s.host.responses ++ [.error e] →
    e ≠ .noDevice →
    ∃ a rest, s.host.requests = ⟨a, .pseudo (.setFrequency (.failed e))⟩ :: rest ∧
      t = { s with host := ⟨s.host.records, rest, s.host.responses ++ [.error e]⟩ }

/-! ### State and reset: 10_state.md, 70_reset_and_hazards.md -/

/-- R27, the reset values, for any parameters. -/
def Obligations.ResetLeavesTheTable : Prop :=
  ∀ p : Params,
    let s := State.resetWith p
    s.block.armed = false ∧ s.block.busy = false ∧ s.block.job = none ∧ s.block.pending = [] ∧
    (∀ q : Pin, pinLevel s.block.pins q = none) ∧ s.block.faults = [] ∧ s.block.trace = [] ∧
    (∀ i (h : i < 32), s.rx.sr[i] = none) ∧ (∀ k (h : k < 6), s.rx.reg[k] = none) ∧
    s.host.records = p.defaults

/-- R17: `armed` is false at reset, ARM sets it and no command and no other step changes it; every writer command reads
it; the encode commands do not. -/
def Obligations.OnlyArmSetsArmed : Prop :=
  (∀ p : Params, (State.resetWith p).block.armed = false) ∧
  (∀ s : State, Live s → s.block.busy = false → ∃ t, exec .arm s = .next t ∧ t.block.armed = true) ∧
  (∀ (s t : State) (i : Instr), exec i s = .next t → i ≠ .arm → t.block.armed = s.block.armed) ∧
  (∀ s t : State, step s = .next t → s.block.armed = true → t.block.armed = true) ∧
  (∀ s t : State, step s = .next t → s.block.armed = false → t.block.armed = true →
    ∃ c rest, Arrives s c rest ∧ decode s.params.layout c = .ok .arm) ∧
  (∀ (s : State) (i : Instr), Live s → s.block.busy = false → isWriter i = true → s.block.armed = false →
    ReturnsNoDevice i s) ∧
  (∀ (s : State) (i : Instr) (k : RegIndex) (r : RegRecord) (b : Bool), Live s → encodes i = some (k, r) →
    ∃ w, Returns i s w ∧ Returns i { s with block := { s.block with armed := b } } w)

/-- The life of `busy` (10_state.md section 2): it rises only when a writer command is accepted, falls only at the
LatchLow step of the burst's last word, and the invariants of `busy` are kept by every step. -/
def Obligations.BusySpansTheBurst : Prop :=
  (∀ s t : State, step s = .next t → s.block.busy = false → t.block.busy = true →
    ∃ c rest i, Arrives s c rest ∧ decode s.params.layout c = .ok i ∧ isWriter i = true ∧ s.block.armed = true) ∧
  (∀ s t : State, step s = .next t → s.block.busy = true → t.block.busy = false →
    ∃ j, s.block.job = some j ∧ j.phase = .latchLow ∧ s.block.pending = []) ∧
  (∀ s t : State, BusyInv s → step s = .next t → BusyInv t)

/-- The job's word (10_state.md section 2) is never changed while the job runs: it changes only when LatchLow takes the
next pending word. -/
def Obligations.JobWordIsNeverChanged : Prop :=
  ∀ (s t : State) (j k : Job), BusyInv s → step s = .next t → s.block.job = some j → t.block.job = some k →
    (k.word = j.word ∧ t.block.pending = s.block.pending) ∨
    (j.phase = .latchLow ∧ s.block.pending = k.word :: t.block.pending ∧ k.bit = 31 ∧ k.phase = .setup)

/-- No step changes a parameter (10_state.md section 2), and no command does. -/
def Obligations.ParametersNeverChange : Prop :=
  (∀ s t : State, step s = .next t → t.params = s.params) ∧
  (∀ (i : Instr) (s t : State), exec i s = .next t → t.params = s.params)

/-- The trace only grows (20_memory.md section 3): every step appends to it and nothing is reordered or removed. -/
def Obligations.TraceOnlyGrows : Prop :=
  ∀ s t : State, step s = .next t → ∃ es, t.block.trace = s.block.trace ++ es ∧ pinsWait es = true

/-- CS is driven by ARM alone, and DATA is driven only by ARM, Setup and Release (41_serial_writer.md section 3): the
events that a step appends hold no drive of CS, and the level of CS does not change, unless ARM arrives; and likewise
for DATA, unless ARM arrives or the writer is at Setup or Release. -/
def Obligations.WhoDrivesCsAndData : Prop :=
  ∀ s t : State, step s = .next t →
    ∃ es, t.block.trace = s.block.trace ++ es ∧
      ((∃ v, Event.pin .cs v ∈ es) ∨ t.block.pins.cs ≠ s.block.pins.cs →
        ∃ c rest, Arrives s c rest ∧ decode s.params.layout c = .ok .arm) ∧
      ((∃ v, Event.pin .data v ∈ es) ∨ t.block.pins.data ≠ s.block.pins.data →
        (∃ c rest, Arrives s c rest ∧ decode s.params.layout c = .ok .arm) ∨
        ∃ j, WriterMoves s j ∧ (j.phase = .setup ∨ j.phase = .release))

/-- Nothing is read back (20_memory.md section 3): two states that differ only in the receiver step to states that
differ only in the receiver, and stop alike. -/
def Obligations.BlockCannotSeeTheReceiver : Prop :=
  ∀ (s : State) (rx : RxState),
    (∀ t, step s = .next t → ∃ rx', step { s with rx := rx } = .next { t with rx := rx' }) ∧
    (∀ f, step s = .fault f → step { s with rx := rx } = .fault f)

/-! ### Frames: what a command leaves unchanged -/

/-- The frame of ENC_R0 to ENC_R5: if one of them leaves a next state, the parameters, the whole block, the receiver and
the host's records and requests are unchanged, and one outcome has been returned. -/
def Obligations.EncodeFrame : Prop :=
  ∀ (s t : State) (i : Instr), encodes i ≠ none → exec i s = .next t →
    t.params = s.params ∧ t.block = s.block ∧ t.rx = s.rx ∧ t.host.records = s.host.records ∧
    t.host.requests = s.host.requests ∧ (∃ x, t.host.responses = s.host.responses ++ [x]) ∧
    (layoutWellFormed s.params.layout → t.refused = s.refused)

/-- The frame of WRITE_WORD, WRITE_ALL and WRITE_R4_R2 at their arrival: only `busy`, `job`, `pending`, the fault set,
the refusal mark and the host's outcomes may change; `armed`, the pins, the trace, the receiver, the parameters and
the host's records and requests do not; and `busy`, `job` and `pending` change only if the command is accepted. -/
def Obligations.WriterFrame : Prop :=
  ∀ (s t : State) (i : Instr), isWriter i = true → exec i s = .next t →
    t.params = s.params ∧ t.rx = s.rx ∧ t.host.records = s.host.records ∧ t.host.requests = s.host.requests ∧
    t.block.armed = s.block.armed ∧ t.block.pins = s.block.pins ∧ t.block.trace = s.block.trace ∧
    (¬ Ready s → t.block.busy = s.block.busy ∧ t.block.job = s.block.job ∧ t.block.pending = s.block.pending) ∧
    (s.block.busy = false → t.block.faults = s.block.faults) ∧
    (layoutWellFormed s.params.layout → t.refused = s.refused)

/-- The frame of ARM: `busy`, `job` and `pending` are unchanged, and so are the parameters and the host's records and
requests; while busy, `armed`, the pins, the trace and the receiver are unchanged too; while idle, no fault is added or
cleared. -/
def Obligations.ArmFrame : Prop :=
  ∀ s t : State, exec .arm s = .next t →
    t.params = s.params ∧ t.host.records = s.host.records ∧ t.host.requests = s.host.requests ∧
    t.block.busy = s.block.busy ∧ t.block.job = s.block.job ∧ t.block.pending = s.block.pending ∧
    (s.block.busy = true → t.block.armed = s.block.armed ∧ t.block.pins = s.block.pins ∧
      t.block.trace = s.block.trace ∧ t.rx = s.rx) ∧
    (s.block.busy = false → t.block.faults = s.block.faults) ∧
    (layoutWellFormed s.params.layout → t.refused = s.refused)

/-! ### Encoding of commands: 30_encoding.md -/

/-- R52: the command codes. Each row's code with its operands decodes to its command, for every operand of the row's
kind; every other code is refused as reserved; and an ENC code's low three bits are the register index. -/
def Obligations.CommandCodesOfTheTable : Prop :=
  ∀ l : Layout,
    let fits (k : RegIndex) (r : RegRecord) : Prop := recordWellFormed (layoutFields l k) r
    decode l ⟨0b0001#4, []⟩ = .ok .arm ∧
    (∀ w : Word, decode l ⟨0b0010#4, [.nat w.toNat]⟩ = .ok (.writeWord w)) ∧
    (∀ r0 r1 r2 r3 r4 r5, fits 0 r0 → fits 1 r1 → fits 2 r2 → fits 3 r3 → fits 4 r4 → fits 5 r5 →
      decode l ⟨0b0011#4, [.record r0, .record r1, .record r2, .record r3, .record r4, .record r5]⟩ =
        .ok (.writeAll r0 r1 r2 r3 r4 r5)) ∧
    (∀ r4 r2, fits 4 r4 → fits 2 r2 →
      decode l ⟨0b0100#4, [.record r4, .record r2]⟩ = .ok (.writeR4R2 r4 r2)) ∧
    (∀ r, fits 0 r → decode l ⟨0b1000#4, [.record r]⟩ = .ok (.encR0 r)) ∧
    (∀ r, fits 1 r → decode l ⟨0b1001#4, [.record r]⟩ = .ok (.encR1 r)) ∧
    (∀ r, fits 2 r → decode l ⟨0b1010#4, [.record r]⟩ = .ok (.encR2 r)) ∧
    (∀ r, fits 3 r → decode l ⟨0b1011#4, [.record r]⟩ = .ok (.encR3 r)) ∧
    (∀ r, fits 4 r → decode l ⟨0b1100#4, [.record r]⟩ = .ok (.encR4 r)) ∧
    (∀ r, fits 5 r → decode l ⟨0b1101#4, [.record r]⟩ = .ok (.encR5 r)) ∧
    (∀ c ops, reservedCode c → decode l ⟨c, ops⟩ = .error (.reservedCode c)) ∧
    (∀ (i : Instr) (k : RegIndex) (r : RegRecord), encodes i = some (k, r) →
      (codeOf i)[3] = true ∧ (codeOf i).toNat % 8 = k.val)

/-- Decode and encode agree: a command at the port decodes to a command exactly when it is that command's encoding and
its records are well-formed, with every operand at every value. -/
def Obligations.DecodeInvertsEncode : Prop :=
  ∀ (l : Layout) (c : HostCommand) (i : Instr), decode l c = .ok i ↔ c = encode i ∧ i.WellFormed l

/-- A few command words of 30_encoding.md section 4, written out, decode to their commands (a sanity statement). -/
def Obligations.SomeCommandWordsDecode : Prop :=
  decode defaultLayout ⟨0b0001#4, []⟩ = .ok .arm ∧
  decode defaultLayout ⟨0b0010#4, [.nat 0x00580005]⟩ = .ok (.writeWord 0x00580005#32) ∧
  decode defaultLayout ⟨0b1000#4, [.record [("int", 96)]]⟩ = .ok (.encR0 [("int", 96)]) ∧
  decode defaultLayout ⟨0b1101#4, [.record []]⟩ = .ok (.encR5 []) ∧
  decode defaultLayout ⟨0b1110#4, [.record []]⟩ = .error (.reservedCode 0b1110#4)

/-- A step runs the decoded command: when the command that reaches the block decodes to `i`, the step is `exec i` in the
state whose host has issued it (the request leaves the queue). -/
def Obligations.StepRunsTheDecodedCommand : Prop :=
  ∀ (s : State) (c : HostCommand) (rest : List Request) (i : Instr), Arrives s c rest →
    decode s.params.layout c = .ok i → step s = exec i { s with host := { s.host with requests := rest } }

/-- A program text that is accepted (30_encoding.md section 5) gives commands that every one decode to a well-formed
command; the step that takes the text issues them in order, the first at once and each later one when the block is idle,
and changes nothing else. That the commands are placed at the head of the host's queue, the first to arrive at once, is
the model's choice (log 2), and so are the points of the grammar that the spec leaves open (log 23, 32). -/
def Obligations.AcceptedTextIssuesItsCommands : Prop :=
  ∀ (s : State) (src : List Char) (cs : List HostCommand), parseProgram s.params.layout src = some cs →
    (∀ c ∈ cs, ∃ i, decode s.params.layout c = .ok i ∧ i.WellFormed s.params.layout) ∧
    (∀ (a : Arrival) (rest : List Request) (c : HostCommand) (more : List HostCommand), s.block.faults = [] →
      s.host.requests = ⟨a, .text src⟩ :: rest → isDue s.block.busy ⟨a, .text src⟩ = true → cs = c :: more →
      step s = .next { s with host := { s.host with
        requests := ⟨.afterMicroSteps 0, .command c⟩ ::
          (more.map (fun d => ⟨.whenComplete, .command d⟩) ++ rest) } })

/-- The waits of each command, which the spec marks "[derived: from 41_serial_writer.md rule R74]": 4 for ARM, 98 or
130 for WRITE_WORD, 196 or 260 for WRITE_R4_R2, 588 or 780 for WRITE_ALL, none for ENC; the least time is that many
T_STEP. -/
def Obligations.CommandsWaitAsTheTableSays : Prop :=
  ∀ (s : State) (i : Instr), Ready s → s.host.requests = [] →
    let n : Nat :=
      match i, s.params.dataRelease with
      | .arm, _ => 4
      | .writeWord _, .hold => 98
      | .writeWord _, .driveLow => 130
      | .writeR4R2 _ _, .hold => 196
      | .writeR4R2 _ _, .driveLow => 260
      | .writeAll _ _ _ _ _ _, .hold => 588
      | .writeAll _ _ _ _ _ _, .driveLow => 780
      | _, _ => 0
    ∃ t k u es, exec i s = .next t ∧ Reaches k t u ∧ u.block.busy = false ∧
      u.block.trace = s.block.trace ++ es ∧ waits es = n ∧ leastTime es = n * Config.tStep ∧
      u.host.responses.length = s.host.responses.length + 1
end

