-- ==== Sys2Proof/Laws/Operands.lean ====
section
/-! SUPPORT. The parts of the encoder: a field's part lies in its own bits, and the OR of the parts is read bit by
bit. -/

namespace Sys2Proof.Machine

/-- A field's part sets only the field's own bits (30_encoding.md R41). -/
theorem fieldPart_testBit (r : RegRecord) (f : Field) (i : Nat) :
    (fieldPart r f).testBit i = (decide (f.lsb ≤ i ∧ i < f.lsb + f.width) && (fieldValue r f.name).testBit (i - f.lsb)) := by
  simp only [fieldPart, Nat.testBit_shiftLeft, Nat.testBit_mod_two_pow]
  by_cases h : f.lsb ≤ i
  · have hw : i - f.lsb < f.width ↔ i < f.lsb + f.width := by omega
    simp [h, hw]
  · simp [h]

/-- A bit of the OR of the parts is set by some field (40_encoder.md R54). -/
theorem fieldParts_testBit (r : RegRecord) (fs : List Field) (i : Nat) :
    (fieldParts r fs).testBit i = fs.any fun f => (fieldPart r f).testBit i := by
  induction fs with
  | nil => simp [fieldParts]
  | cons f fs ih => simp [fieldParts, Nat.testBit_or, ih]

/-- A bit of ENC(k, r) is an index bit or comes from a field (40_encoder.md R54). -/
theorem encodeNat_testBit (l : Layout) (k : RegIndex) (r : RegRecord) (i : Nat) :
    (encodeNat l k r).testBit i =
      (k.val.testBit i || (layoutFields l k).any fun f => (fieldPart r f).testBit i) := by
  simp [encodeNat, Nat.testBit_or, fieldParts_testBit]

/-- A field that was set reads as it was set. -/
@[simp] theorem fieldValue_setField_same (r : RegRecord) (f : FieldName) (v : Nat) :
    fieldValue (setField r f v) f = v := by
  simp [fieldValue, setField]

/-- Setting a field leaves every other field alone. -/
theorem fieldValue_setField_other (r : RegRecord) {f g : FieldName} (h : g ≠ f) (v : Nat) :
    fieldValue (setField r f v) g = fieldValue r g := by
  have hg : (g == f) = false := by simpa using h
  unfold fieldValue setField
  rw [List.lookup_cons, hg]
  congr 1
  induction r with
  | nil => rfl
  | cons p r ih =>
    obtain ⟨q, u⟩ := p
    by_cases hq : q = f
    · subst hq
      simpa [List.lookup_cons, hg] using ih
    · by_cases hgq : g = q
      · subst hgq
        simp [h]
      · have hb : (g == q) = false := by simpa using hgq
        simpa [hq, List.lookup_cons, hb] using ih

end Sys2Proof.Machine
end

