-- ==== Sys2Proof/Laws/HostOps.lean ====
section
/-! SUPPORT. What setting one field of the host's records does. -/

namespace Sys2Proof.Machine

/-- A field that was set in one of the records reads as it was set, and every other field of every record as before. -/
theorem fieldValue_setRegField (r : Registers) (k j : RegIndex) (f g : FieldName) (v : Nat) :
    fieldValue (setRegField r k f v)[j] g = if j = k ∧ g = f then v else fieldValue r[j] g := by
  by_cases hj : j = k
  · subst hj
    by_cases hg : g = f
    · subst hg
      simp [setRegField]
    · simpa [setRegField, hg] using fieldValue_setField_other _ hg v
  · have hv : ¬ k.val = j.val := fun h => hj (Fin.ext h.symm)
    simp [setRegField, hj, hv]

end Sys2Proof.Machine
end

