-- ==== Sys2Proof/Laws/State.lean ====
section
/-! SUPPORT. What each update of the state does to each field: one lemma per field per update, true by definition, so
that no later proof unfolds a record update. -/

namespace Sys2Proof.Machine

@[simp] theorem setArmed_params (s : State) : (setArmed s).params = s.params := rfl
@[simp] theorem setArmed_armed (s : State) : (setArmed s).block.armed = true := rfl
@[simp] theorem setArmed_busy (s : State) : (setArmed s).block.busy = s.block.busy := rfl
@[simp] theorem setArmed_job (s : State) : (setArmed s).block.job = s.block.job := rfl
@[simp] theorem setArmed_pending (s : State) : (setArmed s).block.pending = s.block.pending := rfl
@[simp] theorem setArmed_pins (s : State) : (setArmed s).block.pins = s.block.pins := rfl
@[simp] theorem setArmed_faults (s : State) : (setArmed s).block.faults = s.block.faults := rfl
@[simp] theorem setArmed_trace (s : State) : (setArmed s).block.trace = s.block.trace := rfl
@[simp] theorem setArmed_rx (s : State) : (setArmed s).rx = s.rx := rfl
@[simp] theorem setArmed_records (s : State) : (setArmed s).host.records = s.host.records := rfl
@[simp] theorem setArmed_requests (s : State) : (setArmed s).host.requests = s.host.requests := rfl
@[simp] theorem setArmed_responses (s : State) : (setArmed s).host.responses = s.host.responses := rfl
@[simp] theorem setArmed_refused (s : State) : (setArmed s).refused = s.refused := rfl

@[simp] theorem setBurst_params (w : Word) (ws : List Word) (s : State) : (setBurst w ws s).params = s.params := rfl
@[simp] theorem setBurst_armed (w : Word) (ws : List Word) (s : State) :
    (setBurst w ws s).block.armed = s.block.armed := rfl
@[simp] theorem setBurst_busy (w : Word) (ws : List Word) (s : State) : (setBurst w ws s).block.busy = true := rfl
@[simp] theorem setBurst_job (w : Word) (ws : List Word) (s : State) :
    (setBurst w ws s).block.job = some { word := w, bit := 31, phase := .setup } := rfl
@[simp] theorem setBurst_pending (w : Word) (ws : List Word) (s : State) : (setBurst w ws s).block.pending = ws := rfl
@[simp] theorem setBurst_pins (w : Word) (ws : List Word) (s : State) :
    (setBurst w ws s).block.pins = s.block.pins := rfl
@[simp] theorem setBurst_faults (w : Word) (ws : List Word) (s : State) :
    (setBurst w ws s).block.faults = s.block.faults := rfl
@[simp] theorem setBurst_trace (w : Word) (ws : List Word) (s : State) :
    (setBurst w ws s).block.trace = s.block.trace := rfl
@[simp] theorem setBurst_rx (w : Word) (ws : List Word) (s : State) : (setBurst w ws s).rx = s.rx := rfl
@[simp] theorem setBurst_records (w : Word) (ws : List Word) (s : State) :
    (setBurst w ws s).host.records = s.host.records := rfl
@[simp] theorem setBurst_requests (w : Word) (ws : List Word) (s : State) :
    (setBurst w ws s).host.requests = s.host.requests := rfl
@[simp] theorem setBurst_responses (w : Word) (ws : List Word) (s : State) :
    (setBurst w ws s).host.responses = s.host.responses := rfl
@[simp] theorem setBurst_refused (w : Word) (ws : List Word) (s : State) :
    (setBurst w ws s).refused = s.refused := rfl

@[simp] theorem setJob_params (j : Job) (s : State) : (setJob j s).params = s.params := rfl
@[simp] theorem setJob_armed (j : Job) (s : State) : (setJob j s).block.armed = s.block.armed := rfl
@[simp] theorem setJob_busy (j : Job) (s : State) : (setJob j s).block.busy = s.block.busy := rfl
@[simp] theorem setJob_job (j : Job) (s : State) : (setJob j s).block.job = some j := rfl
@[simp] theorem setJob_pending (j : Job) (s : State) : (setJob j s).block.pending = s.block.pending := rfl
@[simp] theorem setJob_pins (j : Job) (s : State) : (setJob j s).block.pins = s.block.pins := rfl
@[simp] theorem setJob_faults (j : Job) (s : State) : (setJob j s).block.faults = s.block.faults := rfl
@[simp] theorem setJob_trace (j : Job) (s : State) : (setJob j s).block.trace = s.block.trace := rfl
@[simp] theorem setJob_rx (j : Job) (s : State) : (setJob j s).rx = s.rx := rfl
@[simp] theorem setJob_records (j : Job) (s : State) : (setJob j s).host.records = s.host.records := rfl
@[simp] theorem setJob_requests (j : Job) (s : State) : (setJob j s).host.requests = s.host.requests := rfl
@[simp] theorem setJob_responses (j : Job) (s : State) : (setJob j s).host.responses = s.host.responses := rfl
@[simp] theorem setJob_refused (j : Job) (s : State) : (setJob j s).refused = s.refused := rfl

@[simp] theorem setNextWord_params (w : Word) (ws : List Word) (s : State) :
    (setNextWord w ws s).params = s.params := rfl
@[simp] theorem setNextWord_armed (w : Word) (ws : List Word) (s : State) :
    (setNextWord w ws s).block.armed = s.block.armed := rfl
@[simp] theorem setNextWord_busy (w : Word) (ws : List Word) (s : State) :
    (setNextWord w ws s).block.busy = s.block.busy := rfl
@[simp] theorem setNextWord_job (w : Word) (ws : List Word) (s : State) :
    (setNextWord w ws s).block.job = some { word := w, bit := 31, phase := .setup } := rfl
@[simp] theorem setNextWord_pending (w : Word) (ws : List Word) (s : State) :
    (setNextWord w ws s).block.pending = ws := rfl
@[simp] theorem setNextWord_pins (w : Word) (ws : List Word) (s : State) :
    (setNextWord w ws s).block.pins = s.block.pins := rfl
@[simp] theorem setNextWord_faults (w : Word) (ws : List Word) (s : State) :
    (setNextWord w ws s).block.faults = s.block.faults := rfl
@[simp] theorem setNextWord_trace (w : Word) (ws : List Word) (s : State) :
    (setNextWord w ws s).block.trace = s.block.trace := rfl
@[simp] theorem setNextWord_rx (w : Word) (ws : List Word) (s : State) : (setNextWord w ws s).rx = s.rx := rfl
@[simp] theorem setNextWord_records (w : Word) (ws : List Word) (s : State) :
    (setNextWord w ws s).host.records = s.host.records := rfl
@[simp] theorem setNextWord_requests (w : Word) (ws : List Word) (s : State) :
    (setNextWord w ws s).host.requests = s.host.requests := rfl
@[simp] theorem setNextWord_responses (w : Word) (ws : List Word) (s : State) :
    (setNextWord w ws s).host.responses = s.host.responses := rfl
@[simp] theorem setNextWord_refused (w : Word) (ws : List Word) (s : State) :
    (setNextWord w ws s).refused = s.refused := rfl

@[simp] theorem clearBurst_params (s : State) : (clearBurst s).params = s.params := rfl
@[simp] theorem clearBurst_armed (s : State) : (clearBurst s).block.armed = s.block.armed := rfl
@[simp] theorem clearBurst_busy (s : State) : (clearBurst s).block.busy = false := rfl
@[simp] theorem clearBurst_job (s : State) : (clearBurst s).block.job = none := rfl
@[simp] theorem clearBurst_pending (s : State) : (clearBurst s).block.pending = s.block.pending := rfl
@[simp] theorem clearBurst_pins (s : State) : (clearBurst s).block.pins = s.block.pins := rfl
@[simp] theorem clearBurst_faults (s : State) : (clearBurst s).block.faults = s.block.faults := rfl
@[simp] theorem clearBurst_trace (s : State) : (clearBurst s).block.trace = s.block.trace := rfl
@[simp] theorem clearBurst_rx (s : State) : (clearBurst s).rx = s.rx := rfl
@[simp] theorem clearBurst_records (s : State) : (clearBurst s).host.records = s.host.records := rfl
@[simp] theorem clearBurst_requests (s : State) : (clearBurst s).host.requests = s.host.requests := rfl
@[simp] theorem clearBurst_responses (s : State) : (clearBurst s).host.responses = s.host.responses := rfl
@[simp] theorem clearBurst_refused (s : State) : (clearBurst s).refused = s.refused := rfl

@[simp] theorem addFault_params (f : Fault) (s : State) : (addFault f s).params = s.params := rfl
@[simp] theorem addFault_armed (f : Fault) (s : State) : (addFault f s).block.armed = s.block.armed := rfl
@[simp] theorem addFault_busy (f : Fault) (s : State) : (addFault f s).block.busy = s.block.busy := rfl
@[simp] theorem addFault_job (f : Fault) (s : State) : (addFault f s).block.job = s.block.job := rfl
@[simp] theorem addFault_pending (f : Fault) (s : State) : (addFault f s).block.pending = s.block.pending := rfl
@[simp] theorem addFault_pins (f : Fault) (s : State) : (addFault f s).block.pins = s.block.pins := rfl
@[simp] theorem addFault_faults (f : Fault) (s : State) : (addFault f s).block.faults = s.block.faults.insert f := rfl
@[simp] theorem addFault_trace (f : Fault) (s : State) : (addFault f s).block.trace = s.block.trace := rfl
@[simp] theorem addFault_rx (f : Fault) (s : State) : (addFault f s).rx = s.rx := rfl
@[simp] theorem addFault_records (f : Fault) (s : State) : (addFault f s).host.records = s.host.records := rfl
@[simp] theorem addFault_requests (f : Fault) (s : State) : (addFault f s).host.requests = s.host.requests := rfl
@[simp] theorem addFault_responses (f : Fault) (s : State) : (addFault f s).host.responses = s.host.responses := rfl
@[simp] theorem addFault_refused (f : Fault) (s : State) : (addFault f s).refused = s.refused := rfl

@[simp] theorem setRefused_params (s : State) : (setRefused s).params = s.params := rfl
@[simp] theorem setRefused_armed (s : State) : (setRefused s).block.armed = s.block.armed := rfl
@[simp] theorem setRefused_busy (s : State) : (setRefused s).block.busy = s.block.busy := rfl
@[simp] theorem setRefused_job (s : State) : (setRefused s).block.job = s.block.job := rfl
@[simp] theorem setRefused_pending (s : State) : (setRefused s).block.pending = s.block.pending := rfl
@[simp] theorem setRefused_pins (s : State) : (setRefused s).block.pins = s.block.pins := rfl
@[simp] theorem setRefused_faults (s : State) : (setRefused s).block.faults = s.block.faults := rfl
@[simp] theorem setRefused_trace (s : State) : (setRefused s).block.trace = s.block.trace := rfl
@[simp] theorem setRefused_rx (s : State) : (setRefused s).rx = s.rx := rfl
@[simp] theorem setRefused_records (s : State) : (setRefused s).host.records = s.host.records := rfl
@[simp] theorem setRefused_requests (s : State) : (setRefused s).host.requests = s.host.requests := rfl
@[simp] theorem setRefused_responses (s : State) : (setRefused s).host.responses = s.host.responses := rfl
@[simp] theorem setRefused_refused (s : State) : (setRefused s).refused = true := rfl

@[simp] theorem drive_params (p : Pin) (v : Level) (s : State) : (drive p v s).params = s.params := rfl
@[simp] theorem drive_armed (p : Pin) (v : Level) (s : State) : (drive p v s).block.armed = s.block.armed := rfl
@[simp] theorem drive_busy (p : Pin) (v : Level) (s : State) : (drive p v s).block.busy = s.block.busy := rfl
@[simp] theorem drive_job (p : Pin) (v : Level) (s : State) : (drive p v s).block.job = s.block.job := rfl
@[simp] theorem drive_pending (p : Pin) (v : Level) (s : State) : (drive p v s).block.pending = s.block.pending := rfl
@[simp] theorem drive_pins (p : Pin) (v : Level) (s : State) :
    (drive p v s).block.pins = setPin s.block.pins v p := rfl
@[simp] theorem drive_faults (p : Pin) (v : Level) (s : State) : (drive p v s).block.faults = s.block.faults := rfl
@[simp] theorem drive_trace (p : Pin) (v : Level) (s : State) :
    (drive p v s).block.trace = s.block.trace ++ [Event.pin p v] := rfl
@[simp] theorem drive_rx (p : Pin) (v : Level) (s : State) :
    (drive p v s).rx = rxOnPin s.params.rxCommitEdge s.block.pins p v s.rx := rfl
@[simp] theorem drive_records (p : Pin) (v : Level) (s : State) : (drive p v s).host.records = s.host.records := rfl
@[simp] theorem drive_requests (p : Pin) (v : Level) (s : State) :
    (drive p v s).host.requests = s.host.requests := rfl
@[simp] theorem drive_responses (p : Pin) (v : Level) (s : State) :
    (drive p v s).host.responses = s.host.responses := rfl
@[simp] theorem drive_refused (p : Pin) (v : Level) (s : State) : (drive p v s).refused = s.refused := rfl

@[simp] theorem wait_params (s : State) : (wait s).params = s.params := rfl
@[simp] theorem wait_armed (s : State) : (wait s).block.armed = s.block.armed := rfl
@[simp] theorem wait_busy (s : State) : (wait s).block.busy = s.block.busy := rfl
@[simp] theorem wait_job (s : State) : (wait s).block.job = s.block.job := rfl
@[simp] theorem wait_pending (s : State) : (wait s).block.pending = s.block.pending := rfl
@[simp] theorem wait_pins (s : State) : (wait s).block.pins = s.block.pins := rfl
@[simp] theorem wait_faults (s : State) : (wait s).block.faults = s.block.faults := rfl
@[simp] theorem wait_trace (s : State) : (wait s).block.trace = s.block.trace ++ [Event.wait] := rfl
@[simp] theorem wait_rx (s : State) : (wait s).rx = s.rx := rfl
@[simp] theorem wait_records (s : State) : (wait s).host.records = s.host.records := rfl
@[simp] theorem wait_requests (s : State) : (wait s).host.requests = s.host.requests := rfl
@[simp] theorem wait_responses (s : State) : (wait s).host.responses = s.host.responses := rfl
@[simp] theorem wait_refused (s : State) : (wait s).refused = s.refused := rfl

@[simp] theorem respond_params (r : Response) (s : State) : (respond r s).params = s.params := rfl
@[simp] theorem respond_armed (r : Response) (s : State) : (respond r s).block.armed = s.block.armed := rfl
@[simp] theorem respond_busy (r : Response) (s : State) : (respond r s).block.busy = s.block.busy := rfl
@[simp] theorem respond_job (r : Response) (s : State) : (respond r s).block.job = s.block.job := rfl
@[simp] theorem respond_pending (r : Response) (s : State) : (respond r s).block.pending = s.block.pending := rfl
@[simp] theorem respond_pins (r : Response) (s : State) : (respond r s).block.pins = s.block.pins := rfl
@[simp] theorem respond_faults (r : Response) (s : State) : (respond r s).block.faults = s.block.faults := rfl
@[simp] theorem respond_trace (r : Response) (s : State) : (respond r s).block.trace = s.block.trace := rfl
@[simp] theorem respond_rx (r : Response) (s : State) : (respond r s).rx = s.rx := rfl
@[simp] theorem respond_records (r : Response) (s : State) : (respond r s).host.records = s.host.records := rfl
@[simp] theorem respond_requests (r : Response) (s : State) : (respond r s).host.requests = s.host.requests := rfl
@[simp] theorem respond_responses (r : Response) (s : State) :
    (respond r s).host.responses = s.host.responses ++ [r] := rfl
@[simp] theorem respond_refused (r : Response) (s : State) : (respond r s).refused = s.refused := rfl

@[simp] theorem setRequests_params (rs : List Request) (s : State) : (setRequests rs s).params = s.params := rfl
@[simp] theorem setRequests_armed (rs : List Request) (s : State) :
    (setRequests rs s).block.armed = s.block.armed := rfl
@[simp] theorem setRequests_busy (rs : List Request) (s : State) : (setRequests rs s).block.busy = s.block.busy := rfl
@[simp] theorem setRequests_job (rs : List Request) (s : State) : (setRequests rs s).block.job = s.block.job := rfl
@[simp] theorem setRequests_pending (rs : List Request) (s : State) :
    (setRequests rs s).block.pending = s.block.pending := rfl
@[simp] theorem setRequests_pins (rs : List Request) (s : State) : (setRequests rs s).block.pins = s.block.pins := rfl
@[simp] theorem setRequests_faults (rs : List Request) (s : State) :
    (setRequests rs s).block.faults = s.block.faults := rfl
@[simp] theorem setRequests_trace (rs : List Request) (s : State) :
    (setRequests rs s).block.trace = s.block.trace := rfl
@[simp] theorem setRequests_rx (rs : List Request) (s : State) : (setRequests rs s).rx = s.rx := rfl
@[simp] theorem setRequests_records (rs : List Request) (s : State) :
    (setRequests rs s).host.records = s.host.records := rfl
@[simp] theorem setRequests_requests (rs : List Request) (s : State) : (setRequests rs s).host.requests = rs := rfl
@[simp] theorem setRequests_responses (rs : List Request) (s : State) :
    (setRequests rs s).host.responses = s.host.responses := rfl
@[simp] theorem setRequests_refused (rs : List Request) (s : State) : (setRequests rs s).refused = s.refused := rfl

@[simp] theorem setRecords_params (r : Registers) (s : State) : (setRecords r s).params = s.params := rfl
@[simp] theorem setRecords_armed (r : Registers) (s : State) : (setRecords r s).block.armed = s.block.armed := rfl
@[simp] theorem setRecords_busy (r : Registers) (s : State) : (setRecords r s).block.busy = s.block.busy := rfl
@[simp] theorem setRecords_job (r : Registers) (s : State) : (setRecords r s).block.job = s.block.job := rfl
@[simp] theorem setRecords_pending (r : Registers) (s : State) :
    (setRecords r s).block.pending = s.block.pending := rfl
@[simp] theorem setRecords_pins (r : Registers) (s : State) : (setRecords r s).block.pins = s.block.pins := rfl
@[simp] theorem setRecords_faults (r : Registers) (s : State) : (setRecords r s).block.faults = s.block.faults := rfl
@[simp] theorem setRecords_trace (r : Registers) (s : State) : (setRecords r s).block.trace = s.block.trace := rfl
@[simp] theorem setRecords_rx (r : Registers) (s : State) : (setRecords r s).rx = s.rx := rfl
@[simp] theorem setRecords_records (r : Registers) (s : State) : (setRecords r s).host.records = r := rfl
@[simp] theorem setRecords_requests (r : Registers) (s : State) :
    (setRecords r s).host.requests = s.host.requests := rfl
@[simp] theorem setRecords_responses (r : Registers) (s : State) :
    (setRecords r s).host.responses = s.host.responses := rfl
@[simp] theorem setRecords_refused (r : Registers) (s : State) : (setRecords r s).refused = s.refused := rfl

end Sys2Proof.Machine
end

