-- ==== Sys2Proof/Laws/Ops.lean ====
section
/-! SUPPORT. What each shared operation can do, said once: the checks on an arriving command, the acceptance of a
burst, the answer of an encode command, the turn and the step. -/

namespace Sys2Proof.Machine

/-! The checks of 60_exceptions.md R93. -/

@[simp] theorem receive_live {s : State} (h : Live s) (go : State → Host.Outcome State Fault Refusal) :
    receive s go = go s := by
  simp only [receive, h.1, if_pos h.2]

/-- A block that holds a fault answers it, whatever arrives. -/
theorem receive_faulted {s : State} {f : Fault} {fs : List Fault} (h : s.block.faults = f :: fs)
    (go : State → Host.Outcome State Fault Refusal) : receive s go = .fault f := by
  simp only [receive, h]

theorem receive_malformed {s : State} (hf : s.block.faults = []) (hl : ¬ layoutWellFormed s.params.layout)
    (go : State → Host.Outcome State Fault Refusal) : receive s go = .next (refuse .malformedLayout s) := by
  simp only [receive, hf, if_neg hl]

/-- If an arriving command leaves a next state, the block held no fault, and the command was refused for its layout or
went on. -/
theorem receive_next {s t : State} {go : State → Host.Outcome State Fault Refusal} (h : receive s go = .next t) :
    s.block.faults = [] ∧
      ((¬ layoutWellFormed s.params.layout ∧ t = refuse .malformedLayout s) ∨
        (layoutWellFormed s.params.layout ∧ go s = .next t)) := by
  cases hf : s.block.faults with
  | cons f fs => rw [receive_faulted hf] at h; cases h
  | nil =>
    refine ⟨rfl, ?_⟩
    by_cases hl : layoutWellFormed s.params.layout
    · rw [receive_live ⟨hf, hl⟩] at h
      exact .inr ⟨hl, h⟩
    · rw [receive_malformed hf hl] at h
      cases h
      exact .inl ⟨hl, rfl⟩

@[simp] theorem unlessBusy_idle {s : State} (h : s.block.busy = false) (go : State → Host.Outcome State Fault Refusal) :
    unlessBusy s go = go s := by
  simp [unlessBusy, h]

@[simp] theorem unlessBusy_busy {s : State} (h : s.block.busy = true) (go : State → Host.Outcome State Fault Refusal) :
    unlessBusy s go = .next (raiseFault .overlap s) := by
  simp [unlessBusy, h]

@[simp] theorem ifArmed_armed {s : State} (h : s.block.armed = true) (go : State → Host.Outcome State Fault Refusal) :
    ifArmed s go = go s := by
  simp [ifArmed, h]

@[simp] theorem ifArmed_unarmed {s : State} (h : s.block.armed = false)
    (go : State → Host.Outcome State Fault Refusal) : ifArmed s go = .next (raiseError .noDevice s) := by
  simp [ifArmed, h]

/-! Bursts and encode commands. -/

/-- A ready block accepts a burst (41_serial_writer.md R66, 42_sequencing.md R81). -/
theorem acceptBurst_ready {s : State} (h : Ready s) (w : Word) (ws : List Word) :
    acceptBurst w ws s = .next (setBurst w ws s) := by
  simp [acceptBurst, receive_live h.1, unlessBusy_idle h.2.1, ifArmed_armed h.2.2]

/-- The four ways in which a writer command leaves a next state. -/
theorem acceptBurst_next {s t : State} {w : Word} {ws : List Word} (h : acceptBurst w ws s = .next t) :
    s.block.faults = [] ∧
      (t = refuse .malformedLayout s ∨
        (s.block.busy = true ∧ t = raiseFault .overlap s) ∨
        (s.block.busy = false ∧ s.block.armed = false ∧ t = raiseError .noDevice s) ∨
        (s.block.busy = false ∧ s.block.armed = true ∧ t = setBurst w ws s)) := by
  obtain ⟨hf, ⟨-, rfl⟩ | ⟨-, h⟩⟩ := receive_next h
  · exact ⟨hf, .inl rfl⟩
  · refine ⟨hf, .inr ?_⟩
    cases hb : s.block.busy with
    | true =>
      rw [unlessBusy_busy hb] at h
      cases h
      exact .inl ⟨rfl, rfl⟩
    | false =>
      rw [unlessBusy_idle hb] at h
      cases ha : s.block.armed with
      | true =>
        rw [ifArmed_armed ha] at h
        cases h
        exact .inr (.inr ⟨rfl, rfl, rfl⟩)
      | false =>
        rw [ifArmed_unarmed ha] at h
        cases h
        exact .inr (.inl ⟨rfl, rfl, rfl⟩)

/-- The three ways in which ARM leaves a next state. -/
theorem execArm_next {s t : State} (h : execArm s = .next t) :
    s.block.faults = [] ∧
      (t = refuse .malformedLayout s ∨
        (s.block.busy = true ∧ t = raiseFault .overlap s) ∨
        (s.block.busy = false ∧ t = respond (.ok none) (setArmed (armPins s)))) := by
  obtain ⟨hf, ⟨-, rfl⟩ | ⟨-, h⟩⟩ := receive_next h
  · exact ⟨hf, .inl rfl⟩
  · refine ⟨hf, .inr ?_⟩
    cases hb : s.block.busy with
    | true =>
      rw [unlessBusy_busy hb] at h
      cases h
      exact .inl ⟨rfl, rfl⟩
    | false =>
      rw [unlessBusy_idle hb] at h
      cases h
      exact .inr ⟨rfl, rfl⟩

/-- A live block answers an encode command with its word, busy or not, armed or not (40_encoder.md R57). -/
theorem returnWord_live {s : State} (h : Live s) (k : RegIndex) (r : RegRecord) :
    returnWord k r s = .next (respond (.ok (some (encodeReg s.params.layout k r))) s) := by
  simp [returnWord, receive_live h]

theorem returnWord_next {s t : State} {k : RegIndex} {r : RegRecord} (h : returnWord k r s = .next t) :
    s.block.faults = [] ∧
      (t = refuse .malformedLayout s ∨ t = respond (.ok (some (encodeReg s.params.layout k r))) s) := by
  obtain ⟨hf, ⟨-, rfl⟩ | ⟨-, h⟩⟩ := receive_next h
  · exact ⟨hf, .inl rfl⟩
  · cases h
    exact ⟨hf, .inr rfl⟩

/-! The dispatch, by the kind of command. -/

/-- An encode command is its register's answer. -/
theorem exec_encodes {i : Instr} {k : RegIndex} {r : RegRecord} (h : encodes i = some (k, r)) (s : State) :
    exec i s = returnWord k r s := by
  cases i <;> cases h <;> rfl

/-- A writer command is the acceptance of its words. -/
theorem exec_writer {i : Instr} (h : isWriter i = true) (s : State) :
    ∃ w ws, burstWords s.params.layout i = w :: ws ∧ exec i s = acceptBurst w ws s := by
  cases i <;> first | exact ⟨_, _, rfl, rfl⟩ | cases h

/-- Every command is ARM, a writer command or an encode command. -/
theorem instr_kinds (i : Instr) : i = .arm ∨ isWriter i = true ∨ ∃ k r, encodes i = some (k, r) := by
  cases i
  case arm => exact .inl rfl
  all_goals first | exact .inr (.inl rfl) | exact .inr (.inr ⟨_, _, rfl⟩)

/-- What a command can do, whatever it is (60_exceptions.md R85): be refused for its layout, raise Overlap, return
NoDevice, start a burst, arm the block, or return a word. -/
theorem exec_next {i : Instr} {s t : State} (h : exec i s = .next t) :
    s.block.faults = [] ∧
      (t = refuse .malformedLayout s ∨
        (s.block.busy = true ∧ t = raiseFault .overlap s ∧ encodes i = none) ∨
        (s.block.busy = false ∧ s.block.armed = false ∧ t = raiseError .noDevice s ∧ isWriter i = true) ∨
        (s.block.busy = false ∧ s.block.armed = true ∧ isWriter i = true ∧
          ∃ w ws, burstWords s.params.layout i = w :: ws ∧ t = setBurst w ws s) ∨
        (s.block.busy = false ∧ i = .arm ∧ t = respond (.ok none) (setArmed (armPins s))) ∨
        (∃ k r, encodes i = some (k, r) ∧ t = respond (.ok (some (encodeReg s.params.layout k r))) s)) := by
  obtain rfl | hw | ⟨k, r, he⟩ := instr_kinds i
  · obtain ⟨hf, h | h | h⟩ := execArm_next h
    · exact ⟨hf, .inl h⟩
    · exact ⟨hf, .inr (.inl ⟨h.1, h.2, rfl⟩)⟩
    · exact ⟨hf, .inr (.inr (.inr (.inr (.inl ⟨h.1, rfl, h.2⟩))))⟩
  · have hn : encodes i = none := by cases i <;> first | rfl | cases hw
    obtain ⟨w, ws, hws, hx⟩ := exec_writer hw s
    rw [hx] at h
    obtain ⟨hf, h | h | h | h⟩ := acceptBurst_next h
    · exact ⟨hf, .inl h⟩
    · exact ⟨hf, .inr (.inl ⟨h.1, h.2, hn⟩)⟩
    · exact ⟨hf, .inr (.inr (.inl ⟨h.1, h.2.1, h.2.2, hw⟩))⟩
    · exact ⟨hf, .inr (.inr (.inr (.inl ⟨h.1, h.2.1, hw, w, ws, hws, h.2.2⟩)))⟩
  · rw [exec_encodes he] at h
    obtain ⟨hf, h | h⟩ := returnWord_next h
    · exact ⟨hf, .inl h⟩
    · exact ⟨hf, .inr (.inr (.inr (.inr (.inr ⟨k, r, he, h⟩))))⟩

/-- A block that holds a fault performs no command (60_exceptions.md R90). -/
theorem exec_faulted {s : State} {f : Fault} {fs : List Fault} (h : s.block.faults = f :: fs) (i : Instr) :
    exec i s = .fault f := by
  obtain rfl | hw | ⟨k, r, he⟩ := instr_kinds i
  · unfold exec execArm
    exact receive_faulted h _
  · obtain ⟨w, ws, _, hx⟩ := exec_writer hw s
    rw [hx, acceptBurst, receive_faulted h]
  · rw [exec_encodes he, returnWord, receive_faulted h]

/-! The turn. -/

theorem writerTurn_writer {s t : State} {j : Job} (h : writerTurn s = .writer j t) :
    s.block.busy = true ∧ s.block.job = some j ∧ t = setRequests (countDown s.host.requests) s := by
  unfold writerTurn at h
  split at h
  · rename_i hb hj
    cases h
    exact ⟨hb, hj, rfl⟩
  · cases h

theorem writerTurn_kind (s : State) : writerTurn s = .idle ∨ ∃ j t, writerTurn s = .writer j t := by
  unfold writerTurn
  split
  · exact .inr ⟨_, _, rfl⟩
  · exact .inl rfl

/-- A block that holds a fault has no turn (60_exceptions.md R90). -/
theorem turn_faulted {s : State} {f : Fault} {fs : List Fault} (h : s.block.faults = f :: fs) :
    turn s = .stopped f := by
  simp only [turn, h]

/-- A request that is due has the turn. -/
theorem turn_due {s : State} {r : Request} {rest : List Request} (hf : s.block.faults = [])
    (hq : s.host.requests = r :: rest) (hd : isDue s.block.busy r = true) :
    turn s = .host r.action (setRequests rest s) := by
  simp only [turn, hf, hq, if_pos hd]

/-- The writer has the turn while a burst runs and no request is due. -/
theorem turn_writer {s : State} {j : Job} (h : WriterMoves s j) :
    turn s = .writer j (setRequests (countDown s.host.requests) s) := by
  obtain ⟨hf, hb, hj, hd⟩ := h
  have hw : writerTurn s = .writer j (setRequests (countDown s.host.requests) s) := by simp only [writerTurn, hb, hj]
  simp only [turn, hf]
  split
  · exact hw
  · rename_i r rest hq
    rw [if_neg (by simpa using hd r (by simp [hq]))]
    exact hw

/-- The turn, read backwards: one case for each kind. -/
theorem turn_cases (s : State) :
    (∃ f fs, s.block.faults = f :: fs ∧ turn s = .stopped f) ∨
      (s.block.faults = [] ∧ ∃ r rest, s.host.requests = r :: rest ∧ isDue s.block.busy r = true ∧
        turn s = .host r.action (setRequests rest s)) ∨
      (∃ j, WriterMoves s j ∧ turn s = .writer j (setRequests (countDown s.host.requests) s)) ∨
      (s.block.faults = [] ∧ turn s = .idle) := by
  cases hf : s.block.faults with
  | cons f fs => exact .inl ⟨f, fs, rfl, turn_faulted hf⟩
  | nil =>
    refine .inr ?_
    by_cases hd : NoneDue s
    · refine .inr ?_
      have ht : turn s = writerTurn s := by
        simp only [turn, hf]
        split
        · rfl
        · rename_i r rest hq
          rw [if_neg (by simpa using hd r (by simp [hq]))]
      obtain hw | ⟨j, t, hw⟩ := writerTurn_kind s
      · exact .inr ⟨rfl, ht.trans hw⟩
      · obtain ⟨hb, hj, rfl⟩ := writerTurn_writer hw
        exact .inl ⟨j, ⟨hf, hb, hj, hd⟩, ht.trans hw⟩
    · simp only [not_forall, Option.mem_def, Bool.not_eq_false] at hd
      obtain ⟨r, hr, hdue⟩ := hd
      cases hq : s.host.requests with
      | nil => simp [hq] at hr
      | cons r' rest =>
        obtain rfl : r' = r := by simpa [hq] using hr
        exact .inl ⟨rfl, r', rest, rfl, hdue, turn_due hf hq hdue⟩

/-! The step. -/

/-- A block that holds a fault takes no step (60_exceptions.md R90). -/
theorem step_faulted {s : State} {f : Fault} {fs : List Fault} (h : s.block.faults = f :: fs) :
    step s = .fault f := by
  simp only [step, runTurn, turn_faulted h]

theorem step_due {s : State} {r : Request} {rest : List Request} (hf : s.block.faults = [])
    (hq : s.host.requests = r :: rest) (hd : isDue s.block.busy r = true) :
    step s = runAction r.action (setRequests rest s) := by
  simp only [step, runTurn, turn_due hf hq hd]

theorem step_writer {s : State} {j : Job} (h : WriterMoves s j) :
    step s = .next (microStep j (setRequests (countDown s.host.requests) s)) := by
  simp only [step, runTurn, turn_writer h]

/-- What a step can do: a text or a pseudo-command of the host, a command refused by the decoder, a command that runs,
a micro-step of the writer, or nothing. -/
theorem step_next {s t : State} (h : step s = .next t) :
    s.block.faults = [] ∧
      ((∃ a c rest, s.host.requests = ⟨a, .command c⟩ :: rest ∧ isDue s.block.busy ⟨a, .command c⟩ = true ∧
          ((∃ e, decode s.params.layout c = .error e ∧ t = refuse (.command e) (setRequests rest s)) ∨
            (∃ i, decode s.params.layout c = .ok i ∧ exec i (setRequests rest s) = .next t))) ∨
        (∃ a src rest, s.host.requests = ⟨a, .text src⟩ :: rest ∧ t = runText src (setRequests rest s)) ∨
        (∃ a p rest, s.host.requests = ⟨a, .pseudo p⟩ :: rest ∧ t = runPseudo p (setRequests rest s)) ∨
        (∃ j, WriterMoves s j ∧ t = microStep j (setRequests (countDown s.host.requests) s)) ∨
        t = s) := by
  obtain ⟨f, fs, hf, -⟩ | ⟨hf, r, rest, hq, hd, -⟩ | ⟨j, hj, -⟩ | ⟨hf, ht⟩ := turn_cases s
  · rw [step_faulted hf] at h
    cases h
  · refine ⟨hf, ?_⟩
    rw [step_due hf hq hd] at h
    obtain ⟨a, act⟩ := r
    cases act with
    | command c =>
      refine .inl ⟨a, c, rest, hq, hd, ?_⟩
      simp only [runAction, runCommand, setRequests_params] at h
      cases hdec : decode s.params.layout c with
      | ok i =>
        rw [hdec] at h
        exact .inr ⟨i, rfl, h⟩
      | error e =>
        rw [hdec] at h
        cases h
        exact .inl ⟨e, rfl, rfl⟩
    | text src =>
      cases h
      exact .inr (.inl ⟨a, src, rest, hq, rfl⟩)
    | pseudo p =>
      cases h
      exact .inr (.inr (.inl ⟨a, p, rest, hq, rfl⟩))
  · rw [step_writer hj] at h
    cases h
    exact ⟨hj.1, .inr (.inr (.inr (.inl ⟨j, hj, rfl⟩)))⟩
  · simp only [step, runTurn, ht] at h
    cases h
    exact ⟨hf, .inr (.inr (.inr (.inr rfl)))⟩

end Sys2Proof.Machine
end

