-- ==== Sys2Proof/Laws/PerInstr.lean ====
section
/-! SUPPORT. A family of statements about every command as syntax: its code at the port, and that the code with the
command's own operands is read back as the command (30_encoding.md R52). One lemma for each constructor. -/

namespace Sys2Proof.Laws.CommandCode

/-- The command's code is not one of the reserved rows, and its encoding is read back as the command, whatever its
records name (30_encoding.md R52). -/
def Statement (i : Instr) : Prop :=
  ¬ reservedCode (encode i).code ∧ readCommand (encode i) = .ok i

theorem arm : Statement .arm :=
  ⟨by decide, rfl⟩

theorem writeWord (w : Word) : Statement (.writeWord w) := by
  refine ⟨by simp [encode, codeOf, reservedCode], ?_⟩
  simp [encode, codeOf, operandsOf, readCommand, readWriter, readWord, w.isLt]

theorem writeAll (r0 r1 r2 r3 r4 r5 : RegRecord) : Statement (.writeAll r0 r1 r2 r3 r4 r5) :=
  ⟨by simp [encode, codeOf, reservedCode], by
    simp [encode, codeOf, operandsOf, readCommand, readWriter]⟩

theorem writeR4R2 (r4 r2 : RegRecord) : Statement (.writeR4R2 r4 r2) :=
  ⟨by simp [encode, codeOf, reservedCode], by
    simp [encode, codeOf, operandsOf, readCommand, readWriter]⟩

theorem encR0 (r : RegRecord) : Statement (.encR0 r) :=
  ⟨by simp [encode, codeOf, reservedCode], by
    simp [encode, codeOf, operandsOf, readCommand, readEncode]⟩

theorem encR1 (r : RegRecord) : Statement (.encR1 r) :=
  ⟨by simp [encode, codeOf, reservedCode], by
    simp [encode, codeOf, operandsOf, readCommand, readEncode]⟩

theorem encR2 (r : RegRecord) : Statement (.encR2 r) :=
  ⟨by simp [encode, codeOf, reservedCode], by
    simp [encode, codeOf, operandsOf, readCommand, readEncode]⟩

theorem encR3 (r : RegRecord) : Statement (.encR3 r) :=
  ⟨by simp [encode, codeOf, reservedCode], by
    simp [encode, codeOf, operandsOf, readCommand, readEncode]⟩

theorem encR4 (r : RegRecord) : Statement (.encR4 r) :=
  ⟨by simp [encode, codeOf, reservedCode], by
    simp [encode, codeOf, operandsOf, readCommand, readEncode]⟩

theorem encR5 (r : RegRecord) : Statement (.encR5 r) :=
  ⟨by simp [encode, codeOf, reservedCode], by
    simp [encode, codeOf, operandsOf, readCommand, readEncode]⟩

end Sys2Proof.Laws.CommandCode
end

