-- ==== Sys2Proof/Laws/Receiver.lean ====
section
/-! SUPPORT. The reference receiver's parts: what a shift does to each bit, and that a register holding a known word
gives that word back. -/

namespace Sys2Proof.Machine

/-- Bit 0 is the new bit and every other bit is its lower neighbour (41_serial_writer.md R76). -/
theorem shiftIn_get (sr : Vector (Option Bool) 32) (b : Option Bool) (i : Nat) (h : i < 32) :
    (shiftIn sr b)[i] = if i = 0 then b else sr[i - 1] := by
  simp [shiftIn]

theorem srOfWord_get (w : Word) (i : Nat) (h : i < 32) : (srOfWord w)[i] = some (w.getLsbD i) := by
  simp [srOfWord, BitVec.getLsbD_eq_getElem h]

theorem allKnown_map_some (bs : List Bool) : allKnown (bs.map some) = some bs := by
  induction bs with
  | nil => rfl
  | cons b bs ih => simp [allKnown, ih]

theorem bitsToNat_lt (bs : List Bool) : bitsToNat bs < 2 ^ bs.length := by
  induction bs with
  | nil => simp [bitsToNat]
  | cons b bs ih =>
    have hb : b.toNat ≤ 1 := Bool.toNat_le b
    simp only [bitsToNat, List.length_cons, Nat.pow_succ]
    omega

theorem bitsToNat_testBit (bs : List Bool) (i : Nat) : (bitsToNat bs).testBit i = bs.getD i false := by
  induction bs generalizing i with
  | nil => simp [bitsToNat]
  | cons b bs ih =>
    cases i with
    | zero => cases b <;> simp [bitsToNat, Nat.testBit_zero]
    | succ i =>
      have h : (b.toNat + 2 * bitsToNat bs) / 2 = bitsToNat bs := by
        have hb : b.toNat ≤ 1 := Bool.toNat_le b
        omega
      simp [bitsToNat, Nat.testBit_succ, h, ih]

/-- A shift register whose bits are all known holds the word they spell. -/
theorem srWord_srOfWord (w : Word) : srWord (srOfWord w) = some w := by
  have hl : (srOfWord w).toList = ((List.finRange 32).map fun i => w.getLsbD i.val).map some := by
    apply List.ext_getElem <;> simp [srOfWord]
  simp only [srWord, hl, allKnown_map_some, Option.some.injEq]
  apply BitVec.eq_of_getLsbD_eq
  intro i hi
  simp only [BitVec.getLsbD_ofNat, hi, decide_true, Bool.true_and, bitsToNat_testBit]
  simp [List.getD_eq_getElem?_getD, hi]

end Sys2Proof.Machine
end

