-- ==== Sys2Proof/Laws/Run.lean ====
section
/-! SUPPORT. Runs of several steps, put together from single ones. -/

namespace Sys2Proof.Machine

theorem reaches_zero (s : State) : Reaches 0 s s := rfl

/-- A run of one more step, for any machine of the host's interface. -/
theorem core_run_succ (M : Host.Core) (n : Nat) (s : M.State) :
    M.run (n + 1) s =
      match M.step s with
      | .next t => M.run n t
      | .fault f => .fault f
      | .refused r => .refused r := by
  cases h : M.step s <;> simp [Host.Core.run, h]

/-- The machine's step, as the host's interface names it. -/
theorem core_step (s : State) : Host.Core.step core s = step s := rfl

/-- One step first, then the others. -/
theorem reaches_succ {n : Nat} {s t u : State} (h : step s = .next t) (hr : Reaches n t u) : Reaches (n + 1) s u := by
  have hs : Host.Core.step core s = .next t := h
  have hx := core_run_succ core n s
  rw [hs] at hx
  exact hx.trans hr

/-- A run of at least one step, taken apart. -/
theorem reaches_succ_inv {n : Nat} {s u : State} (h : Reaches (n + 1) s u) :
    ∃ t, step s = .next t ∧ Reaches n t u := by
  have hx := (core_run_succ core n s).symm.trans h
  cases hs : Host.Core.step core s with
  | next t =>
    rw [hs] at hx
    exact ⟨t, hs, hx⟩
  | fault f =>
    rw [hs] at hx
    cases hx
  | refused r =>
    rw [hs] at hx
    cases hx

/-- Runs follow one another. -/
theorem reaches_trans {n m : Nat} {s t u : State} (h : Reaches n s t) (hr : Reaches m t u) : Reaches (n + m) s u := by
  induction n generalizing s with
  | zero =>
    cases h
    simpa using hr
  | succ n ih =>
    obtain ⟨x, hx, h⟩ := reaches_succ_inv h
    rw [Nat.succ_add]
    exact reaches_succ hx (ih h)

/-- Without requests of the host, the writer's step is its micro-step alone. -/
theorem step_undisturbed {s : State} {j : Job} (hf : s.block.faults = []) (hb : s.block.busy = true)
    (hj : s.block.job = some j) (hq : s.host.requests = []) : step s = .next (microStep j s) := by
  have hs : setRequests (countDown s.host.requests) s = s := by
    rw [hq]
    simp only [setRequests, countDown, ← hq]
  rw [step_writer ⟨hf, hb, hj, by simp [NoneDue, hq]⟩, hs]

end Sys2Proof.Machine
end

