-- ==== Sys2Proof/Laws/Trace.lean ====
section
/-! SUPPORT. Traces put end to end: what each rule of Safety and the replay say of a trace that grows. -/

namespace Sys2Proof.Machine

@[simp] theorem pinLevel_setPin (ps : Pins) (v : Level) (p q : Pin) :
    pinLevel (setPin ps v p) q = if p = q then some v else pinLevel ps q := by
  cases p <;> cases q <;> rfl

/-- The pins after a trace: what the replay leaves of them does not depend on the receiver. -/
def pinsAfter : List Event → Pins → Pins
  | [], ps => ps
  | .wait :: es, ps => pinsAfter es ps
  | .pin p v :: es, ps => pinsAfter es (setPin ps v p)

theorem replay_fst (edge : CommitEdge) (es : List Event) (ps : Pins) (rx : RxState) :
    (replay edge es (ps, rx)).1 = pinsAfter es ps := by
  induction es generalizing ps rx with
  | nil => rfl
  | cons e es ih => cases e <;> simp [replay, pinsAfter, ih]

theorem pinsAfter_append (xs ys : List Event) (ps : Pins) :
    pinsAfter (xs ++ ys) ps = pinsAfter ys (pinsAfter xs ps) := by
  induction xs generalizing ps with
  | nil => rfl
  | cons e xs ih => cases e <;> simp [pinsAfter, ih]

theorem replay_append (edge : CommitEdge) (xs ys : List Event) (x : Pins × RxState) :
    replay edge (xs ++ ys) x = replay edge ys (replay edge xs x) := by
  induction xs generalizing x with
  | nil => rfl
  | cons e xs ih => cases e <;> simp [replay, ih]

theorem lastLevel_append (p : Pin) (v : Option Level) (xs ys : List Event) :
    lastLevel p v (xs ++ ys) = lastLevel p (lastLevel p v xs) ys := by
  induction xs generalizing v with
  | nil => rfl
  | cons e xs ih => cases e <;> simp [lastLevel, ih]

theorem pinsWait_append {xs ys : List Event} (hx : pinsWait xs = true) :
    pinsWait (xs ++ ys) = pinsWait ys := by
  induction xs using pinsWait.induct with
  | case1 => rfl
  | case2 p v es ih => exact ih hx
  | case3 p v es h => cases es with
    | nil => cases hx
    | cons e es => cases e <;> first | cases hx | exact absurd rfl (h _)
  | case4 es => cases hx

theorem clockQuiet_append (ps : Pins) (xs ys : List Event) :
    clockQuietWhileLatched ps (xs ++ ys) =
      (clockQuietWhileLatched ps xs && clockQuietWhileLatched (pinsAfter xs ps) ys) := by
  induction xs generalizing ps with
  | nil => simp [clockQuietWhileLatched, pinsAfter]
  | cons e xs ih => cases e <;> simp [clockQuietWhileLatched, pinsAfter, ih, Bool.and_assoc]

theorem dataStable_append (ps : Pins) (xs ys : List Event) :
    dataStableWhileClockHigh ps (xs ++ ys) =
      (dataStableWhileClockHigh ps xs && dataStableWhileClockHigh (pinsAfter xs ps) ys) := by
  induction xs generalizing ps with
  | nil => simp [dataStableWhileClockHigh, pinsAfter]
  | cons e xs ih => cases e <;> simp [dataStableWhileClockHigh, pinsAfter, ih, Bool.and_assoc]

theorem clockedLevels_append (ps : Pins) (xs ys : List Event) :
    clockedLevels ps (xs ++ ys) = clockedLevels ps xs ++ clockedLevels (pinsAfter xs ps) ys := by
  induction xs generalizing ps with
  | nil => rfl
  | cons e xs ih => cases e <;> simp [clockedLevels, pinsAfter, ih]

@[simp] theorem waits_append (xs ys : List Event) : waits (xs ++ ys) = waits xs + waits ys := by
  simp [waits]

end Sys2Proof.Machine
end

