-- ==== Sys2Proof/Laws/Writer.lean ====
section
/-! SUPPORT. Each micro-step of the writer as the events it appends (41_serial_writer.md R67 to R73). -/

namespace Sys2Proof.Machine

/-- The state after driving a list of events, the job being `j` then. -/
def afterEvents (s : State) (es : List Event) (j : Option Job) : State :=
  { s with
    block := { s.block with
      job := j
      pins := (replay s.params.rxCommitEdge es (s.block.pins, s.rx)).1
      trace := s.block.trace ++ es }
    rx := (replay s.params.rxCommitEdge es (s.block.pins, s.rx)).2 }

/-- Two lists of events, one after the other, are their concatenation. -/
theorem afterEvents_append (s : State) (es fs : List Event) (j k : Option Job) :
    afterEvents (afterEvents s es j) fs k = afterEvents s (es ++ fs) k := by
  simp [afterEvents, replay_append]

/-- A drive and its wait, as events. -/
theorem driveWait_events (p : Pin) (v : Level) (s : State) :
    driveWait p v s = afterEvents s [.pin p v, .wait] s.block.job := by
  simp [driveWait, wait, drive, afterEvents, replay]

/-- A drive and its wait, and then the job `j`. -/
theorem setJob_driveWait (j : Job) (p : Pin) (v : Level) (s : State) :
    setJob j (driveWait p v s) = afterEvents s [.pin p v, .wait] (some j) := by
  simp [setJob, driveWait, wait, drive, afterEvents, replay]

/-- Every micro-step but LatchLow: one pin event, its wait, and the next job. -/
theorem microStep_events {j : Job} (h : j.phase ≠ .latchLow) (s : State) :
    ∃ p v k, microStep j s = afterEvents s [.pin p v, .wait] (some k) ∧ k.word = j.word := by
  have hn : ∀ i : Job, (nextBit i).word = i.word := by
    intro i
    unfold nextBit
    split <;> rfl
  unfold microStep
  split
  · exact ⟨_, _, _, setJob_driveWait _ _ _ _, rfl⟩
  · exact ⟨_, _, _, setJob_driveWait _ _ _ _, rfl⟩
  · unfold fallStep
    split
    · exact ⟨_, _, _, setJob_driveWait _ _ _ _, rfl⟩
    · exact ⟨_, _, _, setJob_driveWait _ _ _ _, hn j⟩
  · exact ⟨_, _, _, setJob_driveWait _ _ _ _, hn j⟩
  · exact ⟨_, _, _, setJob_driveWait _ _ _ _, rfl⟩
  · contradiction

/-- LatchLow with no word left: the latch falls, the block is idle, and Ok goes to the host. -/
theorem latchLowStep_last {s : State} (h : s.block.pending = []) :
    latchLowStep s = respond (.ok none) (clearBurst (driveWait .le .low s)) := by
  simp [latchLowStep, h]

/-- LatchLow with a word left: the latch falls and that word's Setup of bit 31 is next. -/
theorem latchLowStep_more {s : State} {w : Word} {rest : List Word} (h : s.block.pending = w :: rest) :
    latchLowStep s = setNextWord w rest (driveWait .le .low s) := by
  simp [latchLowStep, h]

end Sys2Proof.Machine
end

