-- ==== Sys2Proof/Tests/Slice0.lean ====
section
/-! SUPPORT. The model's own tests. Expected values are the spec's: 95_test_vectors.md (rows E, W, S, X) and the tables of
30_encoding.md. Then one witness for each statement that has hypotheses. -/

namespace Sys2Proof.Tests

open Sys2Proof Sys2Proof.Machine

/-! ### Small states -/

/-- The parameters after a reset with another release of DATA and another commit edge. -/
def paramsOf (release : DataRelease) (edge : CommitEdge) : Params :=
  { Params.default with dataRelease := release, rxCommitEdge := edge }

/-- The eight events of ARM (95_test_vectors.md W1). -/
def armEvents : List Event :=
  [.pin .cs .high, .wait, .pin .le .low, .wait, .pin .clk .low, .wait, .pin .data .low, .wait]

/-- The block after row W1: armed and idle. -/
def armedBlock : Block :=
  { Block.reset with armed := true, pins := ⟨some .high, some .low, some .low, some .low⟩, trace := armEvents }

/-- The machine after row W1, for a release of DATA and a commit edge. -/
def armedWith (release : DataRelease) (edge : CommitEdge) : State :=
  { State.resetWith (paramsOf release edge) with block := armedBlock }

/-- The machine after row W1. -/
def armedState : State :=
  armedWith .hold .rise

/-- The machine after row W1 with a job running and words pending. -/
def busyWith (release : DataRelease) (j : Job) (ws : List Word) : State :=
  { armedWith release .rise with
    block := { armedBlock with busy := true, job := some j, pending := ws } }

/-- A job of the word of row W4 at a bit and a phase. -/
def jobAt (b : Fin 32) (p : Phase) : Job :=
  ⟨0x00580005#32, b, p⟩

/-- A busy machine at the start of the word of row W4. -/
def busyState : State :=
  busyWith .hold (jobAt 31 .setup) []

/-- The state with given requests of its host. -/
def asking (s : State) (rs : List Request) : State :=
  { s with host := { s.host with requests := rs } }

/-- The state with one request that arrives at once. -/
def askingNow (s : State) (a : HostAction) : State :=
  asking s [⟨.afterMicroSteps 0, a⟩]

/-- A machine whose block holds a fault. -/
def faultedState : State :=
  { busyState with block := { busyState.block with faults := [.overlap] } }

/-- A layout with one field in Reg0 and none elsewhere. -/
def oneField (f : Field) : Layout :=
  ⟨#v[[f], [], [], [], [], []]⟩

/-- A layout with two fields in Reg0 and none elsewhere. -/
def twoFields (f g : Field) : Layout :=
  ⟨#v[[f, g], [], [], [], [], []]⟩

/-- A machine under a layout that breaks 30_encoding.md R40 (b). -/
def malformedState : State :=
  State.resetWith { Params.default with layout := oneField ⟨"x", 2, 1⟩ }

/-- What a step returned to the host last. -/
def lastResponse : Host.Outcome State Fault Refusal → Option Response
  | .next s => s.host.responses.getLast?
  | .fault _ => none
  | .refused _ => none

/-- A part of a next state. -/
def ofNext {α : Type} (f : State → α) : Host.Outcome State Fault Refusal → Option α
  | .next s => some (f s)
  | .fault _ => none
  | .refused _ => none

/-! ### Well-formedness: one ill-formed term for each check -/

/-- 30_encoding.md R53: a field that `LAYOUT[0]` does not have (95_test_vectors.md X8). -/
theorem test_wellFormed_unknown_field : ¬ (Instr.encR0 [("mod", 2)]).WellFormed defaultLayout := by decide

/-- 30_encoding.md R53: a repeated field (95_test_vectors.md X7). -/
theorem test_wellFormed_repeated_field : ¬ (Instr.encR0 [("int", 1), ("int", 2)]).WellFormed defaultLayout := by decide

/-- The records of a burst are each checked against their own register. -/
theorem test_wellFormed_burst_order : ¬ (Instr.writeR4R2 [("r_counter", 1)] []).WellFormed defaultLayout := by decide

theorem test_wellFormed_accepts : (Instr.encR0 [("int", 96), ("frac", 0)]).WellFormed defaultLayout := by decide

/-- 30_encoding.md R43 to R48: the default layout is well-formed. -/
theorem test_defaultLayout_wellFormed : layoutWellFormed defaultLayout := by decide

/-- 30_encoding.md R40: no width of 0 and none above 16, no bit below 3 or above 31, no shared bit, no name twice. -/
theorem test_layout_refuses_width_zero : ¬ layoutWellFormed (oneField ⟨"x", 3, 0⟩) := by decide

theorem test_layout_refuses_width_seventeen : ¬ layoutWellFormed (oneField ⟨"x", 3, 17⟩) := by decide

theorem test_layout_refuses_index_bits : ¬ layoutWellFormed (oneField ⟨"x", 2, 1⟩) := by decide

theorem test_layout_refuses_bit_32 : ¬ layoutWellFormed (oneField ⟨"x", 17, 16⟩) := by decide

theorem test_layout_refuses_shared_bit : ¬ layoutWellFormed (twoFields ⟨"x", 3, 4⟩ ⟨"y", 6, 1⟩) := by decide

theorem test_layout_refuses_repeated_name : ¬ layoutWellFormed (twoFields ⟨"x", 3, 4⟩ ⟨"x", 7, 1⟩) := by decide

theorem test_layout_accepts_edges : layoutWellFormed (twoFields ⟨"x", 3, 13⟩ ⟨"y", 16, 16⟩) := by decide

/-- 70_reset_and_hazards.md R104: the records the model starts from. -/
theorem test_powerOnSafe : defaultsSafe powerOnSafe ∧ fieldValue powerOnSafe[5] "reserved_20_19" = 3 := by decide

/-! ### Decoding: a command of each row of 30_encoding.md R52, its code written out -/

theorem test_decode_arm : decode defaultLayout ⟨0b0001#4, []⟩ = .ok .arm := by decide

theorem test_decode_writeWord : decode defaultLayout ⟨0b0010#4, [.nat 0xFFFFFFFF]⟩ = .ok (.writeWord 0xFFFFFFFF#32) := by
  decide

theorem test_decode_writeAll :
    decode defaultLayout ⟨0b0011#4, [.record [("int", 96)], .record [("mod", 2)], .record [("ldf", 1)],
        .record [("clk_div", 150)], .record [("mtld", 1)], .record [("ld_pin_mode", 1)]]⟩ =
      .ok (.writeAll [("int", 96)] [("mod", 2)] [("ldf", 1)] [("clk_div", 150)] [("mtld", 1)] [("ld_pin_mode", 1)]) := by
  decide

theorem test_decode_writeR4R2 :
    decode defaultLayout ⟨0b0100#4, [.record [("rf_out_en", 1)], .record [("ldp", 1)]]⟩ =
      .ok (.writeR4R2 [("rf_out_en", 1)] [("ldp", 1)]) := by decide

theorem test_decode_encR0 : decode defaultLayout ⟨0b1000#4, [.record [("frac", 1)]]⟩ = .ok (.encR0 [("frac", 1)]) := by
  decide

theorem test_decode_encR1 : decode defaultLayout ⟨0b1001#4, [.record [("phase", 1)]]⟩ = .ok (.encR1 [("phase", 1)]) := by
  decide

theorem test_decode_encR2 : decode defaultLayout ⟨0b1010#4, [.record [("muxout", 1)]]⟩ = .ok (.encR2 [("muxout", 1)]) := by
  decide

theorem test_decode_encR3 : decode defaultLayout ⟨0b1011#4, [.record [("csr", 1)]]⟩ = .ok (.encR3 [("csr", 1)]) := by
  decide

theorem test_decode_encR4 : decode defaultLayout ⟨0b1100#4, [.record [("mtld", 1)]]⟩ = .ok (.encR4 [("mtld", 1)]) := by
  decide

theorem test_decode_encR5 :
    decode defaultLayout ⟨0b1101#4, [.record [("ld_pin_mode", 1)]]⟩ = .ok (.encR5 [("ld_pin_mode", 1)]) := by decide

/-- 95_test_vectors.md X5: the reserved codes, with any operands. -/
theorem test_decode_reserved :
    ∀ c ∈ [0b0000#4, 0b0101#4, 0b0110#4, 0b0111#4, 0b1110#4, 0b1111#4],
      decode defaultLayout ⟨c, []⟩ = .error (.reservedCode c) ∧
      decode defaultLayout ⟨c, [.record []]⟩ = .error (.reservedCode c) := by decide

/-- 95_test_vectors.md W11: an operand of 2^32. -/
theorem test_decode_word_too_large :
    decode defaultLayout ⟨0b0010#4, [.nat 0x100000000]⟩ = .error (.wordTooLarge 0x100000000) := by decide

/-- 95_test_vectors.md X7 and X8 at the port. -/
theorem test_decode_bad_records :
    decode defaultLayout ⟨0b1000#4, [.record [("int", 1), ("int", 2)]]⟩ = .error (.repeatedField 0) ∧
    decode defaultLayout ⟨0b1000#4, [.record [("mod", 2)]]⟩ = .error (.unknownField 0) := by decide

/-- The operands must be those of the row (log 1). -/
theorem test_decode_wrong_operands :
    decode defaultLayout ⟨0b0001#4, [.nat 0]⟩ = .error (.wrongOperands 0b0001#4) ∧
    decode defaultLayout ⟨0b1000#4, [.nat 0]⟩ = .error (.wrongOperands 0b1000#4) := by decide

/-- The opcode table's match words: bits [3:0] are the code. -/
theorem test_table_words :
    decodeTableWord 8 0x1 = some .arm ∧ decodeTableWord 8 0x2 = some (.writeWord 0#32) ∧
    decodeTableWord 8 0xd = some (.encR5 []) ∧ decodeTableWord 8 0xe = none := by decide

/-! ### One step of each command -/

/-- 95_test_vectors.md W1: ARM from reset. -/
theorem test_arm_from_reset :
    ofNext (fun s => (s.block.armed, s.block.trace, s.block.pins)) (exec .arm State.reset) =
      some (true, armEvents, ⟨some .high, some .low, some .low, some .low⟩) := by decide

/-- 95_test_vectors.md X3: ARM while busy is the fault Overlap, and it drives no pin. -/
theorem test_arm_while_busy :
    ofNext (fun s => (s.block.faults, s.block.trace)) (exec .arm busyState) = some ([.overlap], armEvents) := by decide

/-- 95_test_vectors.md W3: WRITE_WORD before ARM. -/
theorem test_writeWord_unarmed :
    ofNext (fun s => (s.host.responses, s.block)) (exec (.writeWord 0x00580005#32) State.reset) =
      some ([.error .noDevice], Block.reset) := by decide

/-- 41_serial_writer.md R66: the acceptance of a word. -/
theorem test_writeWord_accepted :
    ofNext (fun s => (s.block.busy, s.block.job, s.block.pending)) (exec (.writeWord 0xFFFFFFFF#32) armedState) =
      some (true, some ⟨0xFFFFFFFF#32, 31, .setup⟩, []) := by decide

/-- 95_test_vectors.md S5: six zero records send 5, 4, 3, 2, 1, 0. -/
theorem test_writeAll_order :
    ofNext (fun s => (s.block.job, s.block.pending)) (exec (.writeAll [] [] [] [] [] []) armedState) =
      some (some ⟨5#32, 31, .setup⟩, [4#32, 3#32, 2#32, 1#32, 0#32]) := by decide

/-- 95_test_vectors.md S4: WRITE_ALL before ARM. -/
theorem test_writeAll_unarmed :
    ofNext (fun s => (s.host.responses, s.block)) (exec (.writeAll [] [] [] [] [] []) State.reset) =
      some ([.error .noDevice], Block.reset) := by decide

/-- 95_test_vectors.md S2: Reg4's word, then Reg2's. -/
theorem test_writeR4R2_order :
    ofNext (fun s => (s.block.job, s.block.pending))
        (exec (.writeR4R2 [("feedback_sel", 1), ("band_select_clk_div", 200), ("vco_power_down", 1)]
          [("r_counter", 1), ("cp_current", 7), ("ldf", 1), ("pd_polarity", 1)]) armedState) =
      some (some ⟨0x008C8804#32, 31, .setup⟩, [0x00004F42#32]) := by decide

/-- 95_test_vectors.md X3: a burst that reaches a busy block. -/
theorem test_writeR4R2_while_busy :
    ofNext (fun s => (s.block.faults, s.block.job)) (exec (.writeR4R2 [] []) busyState) =
      some ([.overlap], some (jobAt 31 .setup)) := by decide

/-- 95_test_vectors.md E4. -/
theorem test_encR0_truncates :
    lastResponse (exec (.encR0 [("int", 65537), ("frac", 4101)]) State.reset) = some (.ok (some 0x00008028#32)) := by decide

/-- 95_test_vectors.md X4: an encode command while busy is no overlap, and the burst continues. -/
theorem test_encR0_while_busy :
    ofNext (fun s => (s.host.responses, s.block)) (exec (.encR0 [("int", 96)]) busyState) =
      some ([.ok (some 0x00300000#32)], busyState.block) := by decide

/-- 95_test_vectors.md E7 and E10. -/
theorem test_encR1_fields :
    lastResponse (exec (.encR1 [("mod", 2), ("phase", 1)]) State.reset) = some (.ok (some 0x00008011#32)) := by decide

theorem test_encR1_wraps :
    lastResponse (exec (.encR1 [("mod", 4096)]) State.reset) = some (.ok (some 0x00000001#32)) := by decide

/-- 95_test_vectors.md E14 and E17. -/
theorem test_encR2_divider :
    lastResponse (exec (.encR2 [("r_counter", 2), ("rdiv2", 1)]) State.reset) = some (.ok (some 0x01008002#32)) := by decide

theorem test_encR2_top_field :
    lastResponse (exec (.encR2 [("low_noise_spur", 3)]) State.reset) = some (.ok (some 0x60000002#32)) := by decide

/-- 95_test_vectors.md X2 and E21. -/
theorem test_encR3_unarmed :
    ofNext (fun s => (s.host.responses, s.block)) (exec (.encR3 [("clk_div", 150)]) State.reset) =
      some ([.ok (some 0x000004B3#32)], Block.reset) := by decide

theorem test_encR3_max :
    lastResponse (exec (.encR3 [("clk_div", 4095), ("clk_div_mode", 3), ("csr", 1), ("charge_cancel", 1), ("abp", 1),
      ("band_select_clk_mode", 1)]) State.reset) = some (.ok (some 0x00E5FFFB#32)) := by decide

/-- 95_test_vectors.md E25 and E28. -/
theorem test_encR4_divider :
    lastResponse (exec (.encR4 [("band_select_clk_div", 200), ("rf_div_sel", 4)]) State.reset) =
      some (.ok (some 0x004C8004#32)) := by decide

theorem test_encR4_wraps :
    lastResponse (exec (.encR4 [("band_select_clk_div", 256)]) State.reset) = some (.ok (some 0x00000004#32)) := by decide

/-- 95_test_vectors.md E31 and E33. -/
theorem test_encR5_reserved_ones :
    lastResponse (exec (.encR5 [("reserved_20_19", 3)]) State.reset) = some (.ok (some 0x00180005#32)) := by decide

theorem test_encR5_max :
    lastResponse (exec (.encR5 [("reserved_20_19", 3), ("ld_pin_mode", 3)]) State.reset) =
      some (.ok (some 0x00D80005#32)) := by decide

/-- 95_test_vectors.md X9: a block that holds a fault takes no step. -/
theorem test_faulted_stops : step (askingNow faultedState (.command ⟨0b0001#4, []⟩)) = .fault .overlap := rfl

/-- 95_test_vectors.md W11 and X5: the refusal mark, and nothing else of the block. -/
theorem test_refused_commands :
    ofNext (fun s => (s.refused, s.block)) (step (askingNow armedState (.command ⟨0b0010#4, [.nat 0x100000000]⟩))) =
      some (true, armedBlock) ∧
    ofNext (fun s => (s.refused, s.block)) (step (askingNow armedState (.command ⟨0b0111#4, []⟩))) =
      some (true, armedBlock) := by decide

/-- The host's probe runs the table's word as the first command after reset. -/
theorem test_withFetchWord : step (State.reset.withFetchWord 8 0x1) = exec .arm State.reset := rfl

/-! ### Micro-steps -/

/-- 41_serial_writer.md R67: bit 0 of the word of row W4 is 1. -/
theorem test_setup_drives_data :
    ofNext (fun s => (s.block.pins.data, s.block.trace.drop 8, s.block.job))
        (step (busyWith .hold (jobAt 0 .setup) [])) =
      some (some .high, [.pin .data .high, .wait], some (jobAt 0 .rise)) := by decide

/-- 41_serial_writer.md R68, R76: the rising edge shifts DATA into bit 0 of the receiver. -/
theorem test_rise_shifts :
    ofNext (fun s => (s.block.pins.clk, s.rx.sr[0], s.rx.sr[1], s.block.job)) (step (busyWith .hold (jobAt 31 .rise) [])) =
      some (some .high, some false, none, some (jobAt 31 .fall)) := by decide

/-- 41_serial_writer.md R69 and R71 under Hold, R69 and R70 under DriveLow. -/
theorem test_fall_hold :
    ofNext (fun s => (s.block.pins.clk, s.block.job)) (step (busyWith .hold (jobAt 31 .fall) [])) =
      some (some .low, some (jobAt 30 .setup)) := by decide

theorem test_fall_driveLow :
    ofNext (fun s => (s.block.pins.clk, s.block.job)) (step (busyWith .driveLow (jobAt 31 .fall) [])) =
      some (some .low, some (jobAt 31 .release)) := by decide

theorem test_release_last_bit :
    ofNext (fun s => (s.block.pins.data, s.block.job)) (step (busyWith .driveLow (jobAt 0 .release) [])) =
      some (some .low, some (jobAt 0 .latchHigh)) := by decide

/-- 41_serial_writer.md R72, R76: with an unknown bit in the shift register, the commit makes every entry unknown. -/
theorem test_latchHigh_unknown :
    ofNext (fun s => (s.block.pins.le, s.rx.reg, s.block.job))
        (step { busyWith .hold (jobAt 0 .latchHigh) [] with rx := ⟨Vector.replicate 32 none, Vector.replicate 6 (some 0#32)⟩ }) =
      some (some .high, Vector.replicate 6 none, some (jobAt 0 .latchLow)) := by decide

/-- 41_serial_writer.md R76: a known word is committed to the register its index names, and to no other. -/
theorem test_latchHigh_commits :
    ofNext (fun s => s.rx.reg)
        (step { busyWith .hold (jobAt 0 .latchHigh) [] with rx := ⟨srOfWord 0x00580005#32, Vector.replicate 6 none⟩ }) =
      some #v[none, none, none, none, none, some 0x00580005#32] := by decide

/-- 41_serial_writer.md R76, 93_implementation_defined.md I2: a word of index 6 makes every entry unknown (row W9). -/
theorem test_latchHigh_index_six :
    ofNext (fun s => s.rx.reg)
        (step { busyWith .hold (jobAt 0 .latchHigh) [] with
          rx := ⟨srOfWord 0x00000006#32, Vector.replicate 6 (some 0#32)⟩ }) =
      some (Vector.replicate 6 none) := by decide

/-- 41_serial_writer.md R73: the next word starts at once, and the last one completes the command. -/
theorem test_latchLow_next_word :
    ofNext (fun s => (s.block.busy, s.block.job, s.block.pending, s.host.responses))
        (step (busyWith .hold (jobAt 0 .latchLow) [7#32, 8#32])) =
      some (true, some ⟨7#32, 31, .setup⟩, [8#32], []) := by decide

theorem test_latchLow_completes :
    ofNext (fun s => (s.block.busy, s.block.job, s.host.responses)) (step (busyWith .hold (jobAt 0 .latchLow) [])) =
      some (false, none, [.ok none]) := by decide

/-! ### The host's side -/

/-- A brace pair around a text: no brace may stand in a literal of this package. -/
def braced (cs : List Char) : List Char :=
  Char.ofNat 123 :: cs ++ [Char.ofNat 125]

/-- 30_encoding.md R53: a program with a comment, a hexadecimal word and a record. -/
theorem test_text_program :
    parseProgram defaultLayout
        ("ARM ; arm it\nWRITE_WORD 0x00580005\nENC Reg0 ".toList ++ braced " int=96, frac=0 ".toList) =
      some [⟨0b0001#4, []⟩, ⟨0b0010#4, [.nat 0x00580005]⟩, ⟨0b1000#4, [.record [("int", 96), ("frac", 0)]]⟩] := by
  decide

set_option maxRecDepth 4000 in
/-- 30_encoding.md R53: WRITE_ALL lists the six registers in any order; the operands are in the row's order. -/
theorem test_text_writeAll :
    parseProgram defaultLayout ("WRITE_ALL ".toList ++ braced ("Reg5:".toList ++ braced "ld_pin_mode=1".toList ++
        ", Reg4:".toList ++ braced [] ++ ", Reg3:".toList ++ braced [] ++ ", Reg0:".toList ++ braced "int=96".toList ++
        ",\n Reg1:".toList ++ braced [] ++ ", Reg2:".toList ++ braced [])) =
      some [⟨0b0011#4, [.record [("int", 96)], .record [], .record [], .record [], .record [],
        .record [("ld_pin_mode", 1)]]⟩] := by decide

/-- 95_test_vectors.md X6, X7, X8, and a word of 2^32 and a negative number (30_encoding.md R53). -/
theorem test_text_refused :
    parseProgram defaultLayout ("ENC Reg6 ".toList ++ braced " ".toList) = none ∧
    parseProgram defaultLayout ("ENC Reg0 ".toList ++ braced " int=1, int=2 ".toList) = none ∧
    parseProgram defaultLayout ("ENC Reg0 ".toList ++ braced " mod=2 ".toList) = none ∧
    parseProgram defaultLayout "WRITE_WORD 0x100000000".toList = none ∧
    parseProgram defaultLayout "WRITE_WORD -1".toList = none ∧
    parseProgram defaultLayout "RESET".toList = none := by decide

/-- 42_sequencing.md R84: `initialize` puts the records to DEFAULTS and issues ARM. -/
theorem test_pseudo_setup :
    ofNext (fun s => (s.host.records, s.host.requests))
        (step (askingNow { State.reset with host := { State.reset.host with records := Vector.replicate 6 [] } }
          (.pseudo .setup))) =
      some (powerOnSafe, [⟨.afterMicroSteps 0, .command ⟨0b0001#4, []⟩⟩]) := by decide

/-- 95_test_vectors.md V7: a planner's error issues nothing. -/
theorem test_pseudo_planner_error :
    ofNext (fun s => (s.host.responses, s.host.requests, s.block.trace))
        (step (askingNow armedState (.pseudo (.setFrequency (.failed .outOfRange))))) =
      some ([.error .outOfRange], [], armEvents) := by decide

/-- 95_test_vectors.md V1: with the VCO powered down, a plan is taken and nothing is written. -/
theorem test_pseudo_powered_down :
    ofNext (fun s => (s.host.records, s.host.requests, s.host.responses))
        (step (askingNow armedState (.pseudo (.setFrequency (.planned powerOnSafe))))) =
      some (powerOnSafe, [], [.ok none]) := by decide

/-- 42_sequencing.md R84: `set_output_enable` sets its field and issues WRITE_R4_R2. -/
theorem test_pseudo_output_enable :
    ofNext (fun s => (fieldValue s.host.records[4] "rf_out_en", s.host.requests.map fun r => r.action))
        (step (askingNow armedState (.pseudo (.setOutputEnable true)))) =
      some (1, [.command ⟨0b0100#4, [.record [("rf_out_en", 1), ("vco_power_down", 1)], .record []]⟩]) := by decide

/-! ### Witnesses: for each statement with hypotheses, states and operands that meet them all, for each clause -/

/-- Program P1's records (95_test_vectors.md section 6). -/
def p1Reg5 : RegRecord := [("reserved_20_19", 3), ("ld_pin_mode", 1)]
def p1Reg4 : RegRecord := [("feedback_sel", 1), ("band_select_clk_div", 200), ("rf_out_en", 1), ("output_power", 3)]
def p1Reg3 : RegRecord := [("clk_div", 150)]
def p1Reg2 : RegRecord := [("r_counter", 1), ("cp_current", 7), ("ldf", 1), ("pd_polarity", 1)]
def p1Reg1 : RegRecord := [("mod", 2), ("phase", 1)]
def p1Reg0 : RegRecord := [("int", 96)]

/-- The machine before ARM, busy with nothing. -/
abbrev unarmedState : State := State.reset

/-- A command of the host as a request, and the state it arrives in. -/
def arriving (s : State) (i : Instr) : State :=
  askingNow s (.command (encode i))

theorem witness_EncR0ReturnsItsWord : Live State.reset ∧ State.reset.params.layout = defaultLayout := by decide
theorem witness_EncR1ReturnsItsWord : Live armedState ∧ armedState.params.layout = defaultLayout := by decide
theorem witness_EncR2ReturnsItsWord : Live busyState ∧ busyState.params.layout = defaultLayout := by decide
theorem witness_EncR3ReturnsItsWord : Live State.reset ∧ State.reset.params.layout = defaultLayout := by decide
theorem witness_EncR4ReturnsItsWord : Live armedState ∧ armedState.params.layout = defaultLayout := by decide
theorem witness_EncR5ReturnsItsWord : Live busyState ∧ busyState.params.layout = defaultLayout := by decide

/-- A layout whose fields reach the lowest and the highest bit a field may have. -/
theorem witness_EncodeIsIndexOrFields :
    layoutWellFormed defaultLayout ∧ layoutWellFormed (twoFields ⟨"x", 3, 13⟩ ⟨"y", 16, 16⟩) := by decide

theorem witness_EncodeSumsItsTerms :
    layoutWellFormed defaultLayout ∧ layoutWellFormed (twoFields ⟨"x", 3, 13⟩ ⟨"y", 16, 16⟩) := by decide

theorem witness_EncodeKeepsIndexBits : layoutWellFormed (twoFields ⟨"x", 3, 13⟩ ⟨"y", 16, 16⟩) := by decide

/-- A value of 2^w, the first that is cut. -/
theorem witness_EncodeTruncatesSilently :
    Live State.reset ∧ (⟨"int", 15, 16⟩ : Field) ∈ layoutFields State.reset.params.layout 0 ∧
    encodes (.encR0 [("int", 65536)]) = some (0, setField [] "int" 65536) ∧
    encodes (.encR0 [("int", 0)]) = some (0, setField [] "int" (65536 % 2 ^ 16)) := by decide

/-- Each clause: a field (a), bit 31 of Reg0 (b), a zero record (c), equal and unequal records (d), two registers (e), a
bit outside a field (f). -/
theorem witness_EncoderLaws :
    layoutWellFormed defaultLayout ∧ (⟨"frac", 3, 12⟩ : Field) ∈ layoutFields defaultLayout 0 ∧
    (∀ f ∈ layoutFields defaultLayout 0, ¬ (f.lsb ≤ 31 ∧ 31 < f.lsb + f.width)) ∧
    (∀ f ∈ layoutFields defaultLayout 0, fieldValue [] f.name = 0) ∧
    encodeReg defaultLayout 0 [("int", 65536)] = encodeReg defaultLayout 0 [] ∧
    encodeReg defaultLayout 0 [("int", 1)] ≠ encodeReg defaultLayout 0 [] ∧
    (0 : RegIndex) ≠ 5 ∧ ¬ (3 ≤ 15 ∧ 15 < 3 + 12) := by decide

theorem witness_EncodeReadsOnlyItsOperand :
    encodes (.encR4 [("mtld", 1)]) = some (4, [("mtld", 1)]) ∧ Live State.reset ∧ Live busyState ∧
    State.reset.params.layout = busyState.params.layout := by decide

/-- Busy, idle and unarmed, idle and armed, and LE not High. -/
theorem witness_ArmDrivesTheFourPins :
    (Live busyState ∧ busyState.block.busy = true) ∧
    (Live unarmedState ∧ unarmedState.block.busy = false ∧ unarmedState.block.pins.le ≠ some .high) ∧
    (Live armedState ∧ armedState.block.busy = false ∧ armedState.block.pins.le ≠ some .high) := by decide

/-- An armed, idle machine meets the pin invariants. -/
theorem armed_pinInv (d : DataRelease) (e : CommitEdge) : PinInv (armedWith d e) :=
  fun _ => ⟨rfl, by simp [armedWith, armedBlock], fun _ => ⟨rfl, rfl⟩, by simp [armedWith, armedBlock, Block.reset]⟩

theorem witness_WriteWordSendsTheWord :
    (Live busyState ∧ busyState.block.busy = true) ∧
    (Live unarmedState ∧ unarmedState.block.busy = false ∧ unarmedState.block.armed = false) ∧
    (Live armedState ∧ armedState.block.busy = false ∧ armedState.block.armed = true ∧ armedState.host.requests = [] ∧
      armedState.params.dataRelease = .hold ∧ armedState.block.job = none ∧ PinInv armedState) :=
  ⟨by decide, by decide, by decide, by decide, by decide, rfl, rfl, rfl, armed_pinInv _ _⟩

theorem witness_SetupPutsTheBitOnData :
    (WriterMoves (busyWith .hold (jobAt 31 .setup) []) (jobAt 31 .setup)) ∧
    (WriterMoves (busyWith .driveLow (jobAt 0 .setup) []) (jobAt 0 .setup)) := by decide

theorem witness_RiseRaisesTheClock : WriterMoves (busyWith .hold (jobAt 31 .rise) []) (jobAt 31 .rise) := by decide

theorem witness_FallLowersTheClock :
    (WriterMoves (busyWith .hold (jobAt 0 .fall) []) (jobAt 0 .fall) ∧
      (busyWith .hold (jobAt 0 .fall) []).params.dataRelease = .hold) ∧
    (WriterMoves (busyWith .driveLow (jobAt 31 .fall) []) (jobAt 31 .fall) ∧
      (busyWith .driveLow (jobAt 31 .fall) []).params.dataRelease = .driveLow) := by decide

/-- The Release step under DriveLow, a step under Hold with a job in another phase, and an idle block that takes no ARM. -/
theorem witness_ReleaseDrivesDataLow :
    (WriterMoves (busyWith .driveLow (jobAt 0 .release) []) (jobAt 0 .release) ∧
      (busyWith .driveLow (jobAt 0 .release) []).params.dataRelease = .driveLow) ∧
    (∃ t, step armedState = .next t ∧ armedState.params.dataRelease = .hold ∧ armedState.block.job = none ∧
      ∀ c rest, Arrives armedState c rest → decode armedState.params.layout c ≠ .ok .arm) ∧
    ∃ t, step (busyWith .hold (jobAt 0 .fall) []) = .next t ∧
      (busyWith .hold (jobAt 0 .fall) []).params.dataRelease = .hold ∧
      (busyWith .hold (jobAt 0 .fall) []).block.job = some (jobAt 0 .fall) ∧ (jobAt 0 .fall).phase ≠ .release ∧
      (jobAt 0 .fall).phase ≠ .setup ∧ (busyWith .hold (jobAt 0 .fall) []).block.busy = true ∧
      t.block.job = some (jobAt 0 .latchHigh) := by
  refine ⟨by decide, ⟨_, rfl, rfl, rfl, ?_⟩, _, rfl, rfl, rfl, by decide, by decide, rfl, rfl⟩
  rintro c rest ⟨_, a, h, _⟩
  cases h

/-- Bit 1 and bit 0, from Fall under Hold and from Release. -/
theorem witness_NextBitCountsDown :
    (WriterMoves (busyWith .hold (jobAt 1 .fall) []) (jobAt 1 .fall) ∧ 0 < (jobAt 1 .fall).bit.val) ∧
    (WriterMoves (busyWith .hold (jobAt 0 .fall) []) (jobAt 0 .fall) ∧ (jobAt 0 .fall).bit.val = 0) ∧
    (busyWith .hold (jobAt 0 .fall) []).params.dataRelease = .hold ∧
    (WriterMoves (busyWith .driveLow (jobAt 1 .release) []) (jobAt 1 .release) ∧ 0 < (jobAt 1 .release).bit.val) ∧
    (WriterMoves (busyWith .driveLow (jobAt 0 .release) []) (jobAt 0 .release) ∧ (jobAt 0 .release).bit.val = 0) := by
  decide

theorem witness_LatchHighRaisesLatchEnable :
    WriterMoves (busyWith .hold (jobAt 0 .latchHigh) []) (jobAt 0 .latchHigh) := by decide

/-- A word still pending, and none. -/
theorem witness_LatchLowEndsTheWord :
    (WriterMoves (busyWith .hold (jobAt 0 .latchLow) [7#32]) (jobAt 0 .latchLow) ∧
      (busyWith .hold (jobAt 0 .latchLow) [7#32]).block.pending = 7#32 :: []) ∧
    (WriterMoves (busyWith .hold (jobAt 0 .latchLow) []) (jobAt 0 .latchLow) ∧
      (busyWith .hold (jobAt 0 .latchLow) []).block.pending = []) := by decide

theorem witness_OneWordAppendsItsTrace :
    (WriterMoves busyState ⟨0x00580005#32, 31, .setup⟩ ∧ busyState.host.requests = [] ∧
      busyState.params.dataRelease = .hold) ∧
    (WriterMoves (busyWith .driveLow (jobAt 31 .setup) [1#32]) ⟨0x00580005#32, 31, .setup⟩ ∧
      (busyWith .driveLow (jobAt 31 .setup) [1#32]).host.requests = [] ∧
      (busyWith .driveLow (jobAt 31 .setup) [1#32]).params.dataRelease = .driveLow) := by decide

theorem witness_EveryBurstRunsToItsEnd :
    (Ready armedState ∧ armedState.host.requests = []) ∧
    (Ready (armedWith .driveLow .fall) ∧ (armedWith .driveLow .fall).host.requests = []) := by decide

/-- The machine after ARM with the writer at the start of a word meets the invariant. -/
theorem busy_machineInv : MachineInv busyState := by
  refine ⟨by decide, ?_, fun p => by cases p <;> rfl, by decide, by decide⟩
  exact fun _ => ⟨rfl, by decide, fun h => (by cases h), fun j hj => (by cases hj; decide)⟩

/-- The invariant holds of a busy machine, and the machine steps. -/
theorem witness_StepKeepsTheInvariant : MachineInv busyState ∧ ∃ t, step busyState = .next t :=
  ⟨busy_machineInv, _, rfl⟩

/-- A machine whose trace drives DATA again, to the same level, while CLK is High. -/
def redundantDrive : State :=
  let es : List Event := [.pin .data .low, .wait, .pin .clk .high, .wait, .pin .data .low, .wait]
  { State.reset with
    block := { Block.reset with pins := ⟨none, none, some .high, some .low⟩, trace := es }
    rx := (replay .rise es (Block.reset.pins, RxState.reset)).2 }

/-- The events of that trace. -/
abbrev dataDown : Event := .pin .data .low
abbrev clockUp : Event := .pin .clk .high

/-- Two pin events, a drive of DATA while CLK is High, and a job at its Setup. -/
theorem witness_TraceKeepsSerialTiming :
    (MachineInv redundantDrive ∧ ∃ t, step redundantDrive = .next t ∧
      t.block.trace = ([] : List Event) ++ dataDown :: ([.wait] ++ clockUp :: [.wait, dataDown, .wait]) ∧
      t.block.trace = [dataDown, .wait, clockUp, .wait] ++ dataDown :: [.wait] ∧
      lastLevel .clk none [dataDown, .wait, clockUp, .wait] = some .high) ∧
    (MachineInv (arriving armedState (.writeWord 1#32)) ∧ ∃ t j, step (arriving armedState (.writeWord 1#32)) = .next t ∧
      t.block.job = some j ∧ j.phase = .setup) := by
  refine ⟨⟨⟨by decide, ?_, fun p => by cases p <;> rfl, by decide, by decide⟩, _, rfl, rfl, rfl, rfl⟩,
    ⟨⟨by decide, ?_, fun p => by cases p <;> rfl, by decide, by decide⟩, _, _, rfl, rfl, rfl⟩⟩
  · exact fun h => by cases h
  · exact fun _ => ⟨rfl, by decide, fun _ => ⟨rfl, rfl⟩, fun j hj => by cases hj⟩

/-- A receiver that holds a known word, and pins with given LE and CLK. -/
def receiving (e : CommitEdge) (le clk : Option Level) (w : Word) : State :=
  { armedWith .hold e with
    block := { armedBlock with pins := ⟨some .high, le, clk, some .high⟩ }
    rx := ⟨srOfWord w, Vector.replicate 6 none⟩ }

/-- A rising clock edge, an unknown one, both commit edges, words of index 5 and 6 in full, and an unknown bit. -/
theorem witness_ReceiverReactsToPinEvents :
    (receiving .rise none (some .low) 0#32).block.pins.clk = some .low ∧
    (receiving .rise none none 0#32).block.pins.clk = none ∧
    ((receiving .rise (some .low) none 5#32).params.rxCommitEdge = .rise ∧
      (receiving .rise (some .low) none 5#32).block.pins.le = some .low ∧ (5#32).toNat % 8 < 6 ∧
      (∀ i (h : i < 32), (receiving .rise (some .low) none 5#32).rx.sr[i] = some ((5#32).getLsbD i))) ∧
    ((receiving .fall (some .high) none 6#32).params.rxCommitEdge = .fall ∧
      (receiving .fall (some .high) none 6#32).block.pins.le = some .high ∧ 6 ≤ (6#32).toNat % 8 ∧
      (∀ i (h : i < 32), (receiving .fall (some .high) none 6#32).rx.sr[i] = some ((6#32).getLsbD i))) ∧
    (armedState.params.rxCommitEdge = .rise ∧ armedState.block.pins.le = some .low ∧
      ∃ i, ∃ h : i < 32, armedState.rx.sr[i] = none) := by
  refine ⟨rfl, rfl, ⟨rfl, rfl, by decide, ?_⟩, ⟨rfl, rfl, by decide, ?_⟩, rfl, rfl, 0, by decide, rfl⟩
  · exact fun i h => srOfWord_get _ i h
  · exact fun i h => srOfWord_get _ i h

/-- An armed, idle machine whose host asks nothing: for both commit edges and both releases. -/
theorem armed_delivers (d : DataRelease) (e : CommitEdge) :
    Ready (armedWith d e) ∧ (armedWith d e).block.job = none ∧ PinInv (armedWith d e) ∧
      (armedWith d e).host.requests = [] := by
  refine ⟨?_, rfl, armed_pinInv d e, rfl⟩
  cases d <;> cases e <;> decide

/-- Words of index 5, the last register, and 6, the first that names none. -/
theorem witness_WriteWordIsDelivered :
    (∀ d e, Ready (armedWith d e) ∧ (armedWith d e).block.job = none ∧ PinInv (armedWith d e) ∧
      (armedWith d e).host.requests = []) ∧ (0xFFFFFFFD#32).toNat % 8 < 6 ∧ 6 ≤ (6#32).toNat % 8 :=
  ⟨armed_delivers, by decide, by decide⟩

theorem witness_WordGoesOutMsbFirst :
    Ready armedState ∧ armedState.block.job = none ∧ PinInv armedState ∧ armedState.host.requests = [] :=
  armed_delivers .hold .rise

theorem witness_SameWordTwiceIsIdempotent :
    Ready (armedWith .driveLow .fall) ∧ (armedWith .driveLow .fall).block.job = none ∧
      PinInv (armedWith .driveLow .fall) ∧ (armedWith .driveLow .fall).host.requests = [] :=
  armed_delivers .driveLow .fall

/-- At the start of a burst, and at its last step. -/
theorem witness_AcceptedCommandAlwaysCompletes :
    ∀ s ∈ [busyWith .driveLow (jobAt 31 .setup) [1#32, 2#32], busyWith .hold (jobAt 0 .latchLow) []],
      s.block.faults = [] ∧ s.block.busy = true ∧ s.block.job ≠ none ∧ s.host.requests = [] := by decide

/-- Busy, unarmed, ready, both releases, and the rule's example. -/
theorem witness_WriteAllSendsSixWords :
    (Live busyState ∧ busyState.block.busy = true) ∧
    (Live unarmedState ∧ unarmedState.block.busy = false ∧ unarmedState.block.armed = false) ∧
    (Live armedState ∧ armedState.block.busy = false ∧ armedState.block.armed = true ∧ armedState.host.requests = [] ∧
      armedState.params.dataRelease = .hold ∧ armedState.params.layout = defaultLayout) ∧
    (Live (armedWith .driveLow .rise) ∧ (armedWith .driveLow .rise).params.dataRelease = .driveLow) := by decide

theorem witness_WriteR4R2SendsTwoWords :
    (Live busyState ∧ busyState.block.busy = true) ∧
    (Live unarmedState ∧ unarmedState.block.busy = false ∧ unarmedState.block.armed = false) ∧
    (Live armedState ∧ armedState.block.busy = false ∧ armedState.block.armed = true ∧ armedState.host.requests = [] ∧
      armedState.params.dataRelease = .hold ∧ armedState.params.layout = defaultLayout) ∧
    (Live (armedWith .driveLow .rise) ∧ (armedWith .driveLow .rise).params.dataRelease = .driveLow) := by decide

theorem witness_BurstIsDelivered :
    ∀ d e, Ready (armedWith d e) ∧ (armedWith d e).block.job = none ∧ PinInv (armedWith d e) ∧
      (armedWith d e).host.requests = [] :=
  armed_delivers

theorem witness_BurstWordsAreFixedAtAcceptance :
    (Ready armedState ∧ isWriter (.writeAll p1Reg0 p1Reg1 p1Reg2 p1Reg3 p1Reg4 p1Reg5) = true) ∧
    (Ready armedState ∧ isWriter (.writeWord 0#32) = true) ∧
    WriterMoves (busyWith .hold (jobAt 0 .latchLow) [1#32]) (jobAt 0 .latchLow) := by decide

/-- Every pseudo-command, at an armed host and at an unarmed one. -/
theorem witness_PseudoCommandsExpand (p : PseudoCommand) :
    ∀ s ∈ [armedState, State.reset],
      (askingNow s (.pseudo p)).block.faults = [] ∧
      (askingNow s (.pseudo p)).host.requests = ⟨.afterMicroSteps 0, .pseudo p⟩ :: [] ∧
      isDue (askingNow s (.pseudo p)).block.busy ⟨.afterMicroSteps 0, .pseudo p⟩ = true := by
  intro s hs
  simp only [List.mem_cons, List.not_mem_nil, or_false] at hs
  obtain rfl | rfl := hs
  · exact ⟨rfl, rfl, rfl⟩
  · exact ⟨rfl, rfl, rfl⟩

theorem witness_UnarmedWriterGetsNoDevice :
    (Live State.reset ∧ State.reset.block.busy = false ∧ State.reset.block.armed = false ∧
      isWriter (.writeWord 0#32) = true ∧ isWriter (.writeAll [] [] [] [] [] []) = true ∧
      isWriter (.writeR4R2 [] []) = true) ∧
    (isWriter .arm = false ∧ ∃ t, exec .arm State.reset = .next t) ∧
    (isWriter (.encR5 []) = false ∧ ∃ t, exec (.encR5 []) State.reset = .next t) :=
  ⟨by decide, ⟨rfl, _, rfl⟩, rfl, _, rfl⟩

theorem witness_BusyBlockOverlaps :
    Live busyState ∧ busyState.block.busy = true ∧ encodes .arm = none ∧ encodes (.writeR4R2 [] []) = none ∧
    encodes (.encR0 []) ≠ none := by decide

/-- A busy block that takes an overlap, an idle one that takes none, a recorded fault, and a block that holds it. -/
theorem witness_FaultsAreSticky :
    Fault.overlap ∈ faultedState.block.faults ∧ faultedState.block.faults ≠ [] ∧
    (∃ t, exec .arm busyState = .next t ∧ t.block.faults = [.overlap]) ∧
    (∃ t, exec .arm armedState = .next t ∧ t.block.faults = armedState.block.faults) ∧
    (∃ t, step (arriving busyState .arm) = .next t ∧ Fault.overlap ∈ t.block.faults ∧ Reaches 0 t t) :=
  ⟨by decide, by decide, ⟨_, rfl, rfl⟩, ⟨_, rfl, rfl⟩, _, rfl, by decide, rfl⟩

/-- A text that the grammar rejects. -/
def rejectedText : HostAction :=
  .text "RESET".toList

/-- A reserved code, a malformed layout, an operand of 2^32 and a rejected text. -/
theorem witness_RefusalsSetTheMark :
    (Arrives (askingNow armedState (.command ⟨0b1110#4, [.record []]⟩)) ⟨0b1110#4, [.record []]⟩ [] ∧
      reservedCode 0b1110#4) ∧
    (Arrives (askingNow malformedState (.command ⟨0b0001#4, []⟩)) ⟨0b0001#4, []⟩ [] ∧
      ¬ layoutWellFormed (askingNow malformedState (.command ⟨0b0001#4, []⟩)).params.layout) ∧
    (Arrives (askingNow busyState (.command ⟨0b0010#4, [.nat (2 ^ 32)]⟩)) ⟨0b0010#4, [.nat (2 ^ 32)]⟩ [] ∧
      2 ^ 32 ≤ 2 ^ 32) ∧
    ((askingNow armedState rejectedText).block.faults = [] ∧
      (askingNow armedState rejectedText).host.requests = ⟨.afterMicroSteps 0, .text "RESET".toList⟩ :: [] ∧
      isDue (askingNow armedState rejectedText).block.busy ⟨.afterMicroSteps 0, .text "RESET".toList⟩ = true ∧
      parseProgram (askingNow armedState rejectedText).params.layout "RESET".toList = none) :=
  ⟨⟨⟨rfl, _, rfl, rfl⟩, by decide⟩, ⟨⟨rfl, _, rfl, rfl⟩, by decide⟩, ⟨⟨rfl, _, rfl, rfl⟩, by decide⟩, rfl, rfl, rfl,
    by decide⟩

/-- A refused command, an overlap, an unarmed writer, an accepted command, and a running job. -/
theorem witness_ChecksAreMadeInOrder :
    (Arrives (askingNow armedState (.command ⟨0b1111#4, []⟩)) ⟨0b1111#4, []⟩ [] ∧
      decode defaultLayout ⟨0b1111#4, []⟩ = .error (.reservedCode 0b1111#4)) ∧
    (Arrives (arriving busyState .arm) (encode .arm) [] ∧ encodes .arm = none ∧ busyState.block.busy = true) ∧
    (Arrives (arriving State.reset (.writeWord 1#32)) (encode (.writeWord 1#32)) [] ∧
      isWriter (.writeWord 1#32) = true ∧ State.reset.block.armed = false) ∧
    (Arrives (arriving armedState (.writeWord 1#32)) (encode (.writeWord 1#32)) [] ∧
      decode defaultLayout (encode (.writeWord 1#32)) = .ok (.writeWord 1#32)) ∧
    layoutWellFormed (arriving armedState .arm).params.layout ∧
    WriterMoves busyState (jobAt 31 .setup) :=
  ⟨⟨⟨rfl, _, rfl, rfl⟩, by decide⟩, ⟨⟨rfl, _, rfl, rfl⟩, by decide⟩, ⟨⟨rfl, _, rfl, rfl⟩, by decide⟩,
    ⟨⟨rfl, _, rfl, rfl⟩, by decide⟩, by decide, by decide⟩

theorem witness_PlannerErrorsAreNotTheBlocks :
    ∃ t, step (askingNow armedState (.pseudo (.setFrequency (.failed .outOfRange)))) = .next t ∧
      t.host.responses = [] ++ [.error .outOfRange] ∧ ErrorKind.outOfRange ≠ .noDevice :=
  ⟨_, rfl, rfl, by decide⟩

/-- Each clause of the rule on `armed`. -/
theorem witness_OnlyArmSetsArmed :
    (Live State.reset ∧ State.reset.block.busy = false ∧ State.reset.block.armed = false ∧
      isWriter (.writeR4R2 [] []) = true) ∧
    (∃ t, exec (.writeWord 0#32) armedState = .next t) ∧ Instr.writeWord 0#32 ≠ .arm ∧
    (∃ t, step busyState = .next t ∧ busyState.block.armed = true) ∧
    (∃ t, step (arriving State.reset .arm) = .next t ∧ (arriving State.reset .arm).block.armed = false ∧
      t.block.armed = true) ∧
    (Live busyState ∧ encodes (.encR1 []) = some (1, [])) :=
  ⟨by decide, ⟨_, rfl⟩, by decide, ⟨_, rfl, rfl⟩, ⟨_, rfl, rfl, rfl⟩, by decide⟩

/-- A burst begins, a burst ends, and the invariant of `busy` holds of a busy machine that steps. -/
theorem witness_BusySpansTheBurst :
    (∃ t, step (arriving armedState (.writeR4R2 [] [])) = .next t ∧
      (arriving armedState (.writeR4R2 [] [])).block.busy = false ∧ t.block.busy = true) ∧
    (∃ t, step (busyWith .hold (jobAt 0 .latchLow) []) = .next t ∧
      (busyWith .hold (jobAt 0 .latchLow) []).block.busy = true ∧ t.block.busy = false) ∧
    (BusyInv busyState ∧ ∃ t, step busyState = .next t) :=
  ⟨⟨_, rfl, rfl, rfl⟩, ⟨_, rfl, rfl, rfl⟩, by decide, _, rfl⟩

/-- Within a word, and from a word to the next. -/
theorem witness_JobWordIsNeverChanged :
    (BusyInv busyState ∧ ∃ t k, step busyState = .next t ∧ busyState.block.job = some (jobAt 31 .setup) ∧
      t.block.job = some k) ∧
    (BusyInv (busyWith .hold (jobAt 0 .latchLow) [7#32]) ∧ ∃ t k,
      step (busyWith .hold (jobAt 0 .latchLow) [7#32]) = .next t ∧
      (busyWith .hold (jobAt 0 .latchLow) [7#32]).block.job = some (jobAt 0 .latchLow) ∧ t.block.job = some k) :=
  ⟨⟨by decide, _, _, rfl, rfl, rfl⟩, by decide, _, _, rfl, rfl, rfl⟩

theorem witness_ParametersNeverChange :
    (∃ t, step busyState = .next t) ∧ ∃ t, exec .arm State.reset = .next t :=
  ⟨⟨_, rfl⟩, _, rfl⟩

theorem witness_TraceOnlyGrows : ∃ t, step busyState = .next t :=
  ⟨_, rfl⟩

/-- ARM drives CS and DATA, changing them from reset and again to the same level when it is repeated; a Setup changes DATA. -/
theorem witness_WhoDrivesCsAndData :
    (∃ t, step (arriving State.reset .arm) = .next t ∧ t.block.pins.cs ≠ State.reset.block.pins.cs ∧
      t.block.pins.data ≠ State.reset.block.pins.data) ∧
    (∃ t, step (arriving armedState .arm) = .next t ∧ t.block.trace = armEvents ++ armEvents ∧
      Event.pin .cs .high ∈ armEvents ∧ Event.pin .data .low ∈ armEvents) ∧
    (∃ t, step (busyWith .hold (jobAt 0 .setup) []) = .next t ∧
      t.block.pins.data ≠ (busyWith .hold (jobAt 0 .setup) []).block.pins.data) :=
  ⟨⟨_, rfl, by decide, by decide⟩, ⟨_, rfl, rfl, by decide, by decide⟩, _, rfl, by decide⟩

theorem witness_BlockCannotSeeTheReceiver :
    (∃ t, step busyState = .next t) ∧ step faultedState = .fault .overlap :=
  ⟨⟨_, rfl⟩, rfl⟩

theorem witness_EncodeFrame :
    encodes (.encR3 [("csr", 1)]) ≠ none ∧ (∃ t, exec (.encR3 [("csr", 1)]) busyState = .next t) ∧
    layoutWellFormed busyState.params.layout :=
  ⟨by decide, ⟨_, rfl⟩, by decide⟩

/-- An accepted burst, one that is not ready, and an idle block. -/
theorem witness_WriterFrame :
    isWriter (.writeWord 1#32) = true ∧ (∃ t, exec (.writeWord 1#32) armedState = .next t) ∧
    (∃ t, exec (.writeWord 1#32) State.reset = .next t) ∧ ¬ Ready State.reset ∧ State.reset.block.busy = false ∧
    layoutWellFormed State.reset.params.layout :=
  ⟨rfl, ⟨_, rfl⟩, ⟨_, rfl⟩, by decide, rfl, by decide⟩

theorem witness_ArmFrame :
    (∃ t, exec .arm busyState = .next t ∧ busyState.block.busy = true) ∧
    (∃ t, exec .arm armedState = .next t ∧ armedState.block.busy = false) ∧
    layoutWellFormed armedState.params.layout :=
  ⟨⟨_, rfl, rfl⟩, ⟨_, rfl, rfl⟩, by decide⟩

/-- A record that fits each register, a reserved code, and an encode command. -/
theorem witness_CommandCodesOfTheTable :
    recordWellFormed (layoutFields defaultLayout 0) p1Reg0 ∧ recordWellFormed (layoutFields defaultLayout 1) p1Reg1 ∧
    recordWellFormed (layoutFields defaultLayout 2) p1Reg2 ∧ recordWellFormed (layoutFields defaultLayout 3) p1Reg3 ∧
    recordWellFormed (layoutFields defaultLayout 4) p1Reg4 ∧ recordWellFormed (layoutFields defaultLayout 5) p1Reg5 ∧
    reservedCode 0b0000#4 ∧ reservedCode 0b1111#4 ∧ encodes (.encR5 p1Reg5) = some (5, p1Reg5) := by decide

theorem witness_StepRunsTheDecodedCommand :
    Arrives (arriving armedState (.encR4 p1Reg4)) (encode (.encR4 p1Reg4)) [] ∧
    decode (arriving armedState (.encR4 p1Reg4)).params.layout (encode (.encR4 p1Reg4)) = .ok (.encR4 p1Reg4) :=
  ⟨⟨rfl, _, rfl, rfl⟩, by decide⟩

/-- A program of two lines. -/
def twoLines : List Char :=
  "ARM\nWRITE_WORD 5".toList

theorem witness_AcceptedTextIssuesItsCommands :
    parseProgram (askingNow State.reset (.text twoLines)).params.layout twoLines =
      some [⟨0b0001#4, []⟩, ⟨0b0010#4, [.nat 5]⟩] ∧
    (askingNow State.reset (.text twoLines)).block.faults = [] ∧
    (askingNow State.reset (.text twoLines)).host.requests = ⟨.afterMicroSteps 0, .text twoLines⟩ :: [] ∧
    isDue (askingNow State.reset (.text twoLines)).block.busy ⟨.afterMicroSteps 0, .text twoLines⟩ = true := by decide

theorem witness_CommandsWaitAsTheTableSays :
    ∀ d ∈ [DataRelease.hold, DataRelease.driveLow],
      Ready (armedWith d .rise) ∧ (armedWith d .rise).host.requests = [] := by decide

end Sys2Proof.Tests
end

section
/-! PROOFS. The state (10_state.md): the reset values and the life of `armed`. First, what leaves the block as it was:
a refusal, an error, and everything the host does on its own side. -/

namespace Sys2Proof.Machine

@[simp] theorem respond_block (r : Response) (s : State) : (respond r s).block = s.block := rfl
@[simp] theorem refuse_block (r : Refusal) (s : State) : (refuse r s).block = s.block := rfl
@[simp] theorem raiseError_block (e : ErrorKind) (s : State) : (raiseError e s).block = s.block := rfl
@[simp] theorem setRequests_block (rs : List Request) (s : State) : (setRequests rs s).block = s.block := rfl
@[simp] theorem setRecords_block (r : Registers) (s : State) : (setRecords r s).block = s.block := rfl
@[simp] theorem issueNow_block (c : HostCommand) (s : State) : (issueNow c s).block = s.block := rfl

@[simp] theorem issueProgram_block (cs : List HostCommand) (s : State) : (issueProgram cs s).block = s.block := by
  cases cs with
  | nil => rfl
  | cons c rest => simp [issueProgram]

/-- A program text, accepted or refused, reaches only the host's side (30_encoding.md R53). -/
@[simp] theorem runText_block (source : List Char) (s : State) : (runText source s).block = s.block := by
  unfold runText
  split
  · exact issueProgram_block _ s
  · exact refuse_block _ s

@[simp] theorem writeIfPowered_block (s : State) : (writeIfPowered s).block = s.block := by
  unfold writeIfPowered
  split
  · exact issueNow_block _ s
  · exact respond_block _ s

@[simp] theorem pseudoSetFrequency_block (outcome : PlannerOutcome) (s : State) :
    (pseudoSetFrequency outcome s).block = s.block := by
  cases outcome with
  | failed e => exact raiseError_block e s
  | planned r => exact (writeIfPowered_block _).trans (setRecords_block r s)

theorem ifHostArmed_block {s t : State} (h : t.block = s.block) : (ifHostArmed s t).block = s.block := by
  unfold ifHostArmed
  split
  · exact h
  · exact raiseError_block _ s

/-- A pseudo-command is carried out by the host, not by the block (42_sequencing.md R84). -/
@[simp] theorem runPseudo_block (p : PseudoCommand) (s : State) : (runPseudo p s).block = s.block := by
  cases p with
  | setup => rfl
  | setFrequency outcome => exact ifHostArmed_block (pseudoSetFrequency_block outcome s)
  | setOutputEnable on => exact ifHostArmed_block rfl
  | setMode up => exact ifHostArmed_block rfl
  | setTuning cp op low => exact ifHostArmed_block (writeIfPowered_block _)

/-! The life of `armed` (10_state.md R17). -/

/-- No micro-step of the writer touches `armed`. -/
@[simp] theorem microStep_armed (j : Job) (s : State) : (microStep j s).block.armed = s.block.armed := by
  by_cases hj : j.phase = .latchLow
  · simp only [microStep, hj]
    cases hp : s.block.pending with
    | nil => rw [latchLowStep_last hp]; rfl
    | cons w rest => rw [latchLowStep_more hp]; rfl
  · obtain ⟨p, v, k, he, -⟩ := microStep_events hj s
    rw [he]
    rfl

/-- Every command leaves `armed` as it was, unless it is ARM, and then the block is armed. -/
theorem exec_armed {i : Instr} {s t : State} (h : exec i s = .next t) :
    t.block.armed = s.block.armed ∨ (i = .arm ∧ t.block.armed = true) := by
  obtain ⟨-, rfl | ⟨-, rfl, -⟩ | ⟨-, -, rfl, -⟩ | ⟨-, -, -, w, ws, -, rfl⟩ | ⟨-, rfl, rfl⟩ | ⟨k, r, -, rfl⟩⟩ :=
    exec_next h
  · exact .inl rfl
  · exact .inl rfl
  · exact .inl rfl
  · exact .inl rfl
  · exact .inr ⟨rfl, rfl⟩
  · exact .inl rfl

/-- Every step leaves `armed` as it was, unless ARM arrives, and then the block is armed. -/
theorem step_armed {s t : State} (h : step s = .next t) :
    t.block.armed = s.block.armed ∨
      (t.block.armed = true ∧ ∃ c rest, Arrives s c rest ∧ decode s.params.layout c = .ok .arm) := by
  obtain ⟨hf, ⟨a, c, rest, hq, hd, ⟨e, -, rfl⟩ | ⟨i, hi, hx⟩⟩ | ⟨a, src, rest, -, rfl⟩ | ⟨a, p, rest, -, rfl⟩ |
    ⟨j, -, rfl⟩ | rfl⟩ := step_next h
  · simp
  · obtain hs | ⟨rfl, ht⟩ := exec_armed hx
    · exact .inl hs
    · exact .inr ⟨ht, c, rest, ⟨hf, a, hq, hd⟩, hi⟩
  · simp
  · simp
  · simp
  · exact .inl rfl

/-- ARM arms a live, idle block (41_serial_writer.md R65). -/
theorem execArm_idle {s : State} (h : Live s) (hb : s.block.busy = false) :
    execArm s = .next (respond (.ok none) (setArmed (armPins s))) := by
  simp [execArm, receive_live h, unlessBusy_idle hb]

/-- A writer command at a live, idle, unarmed block is the error NoDevice (60_exceptions.md R87). -/
theorem exec_writer_unarmed {i : Instr} {s : State} (h : Live s) (hb : s.block.busy = false)
    (ha : s.block.armed = false) (hi : isWriter i = true) : exec i s = .next (raiseError .noDevice s) := by
  obtain ⟨w, ws, -, hx⟩ := exec_writer hi s
  rw [hx, acceptBurst, receive_live h, unlessBusy_idle hb, ifArmed_unarmed ha]

/-- An encode command at a live block returns its word, which depends on the layout and the record only
(40_encoder.md R57). -/
theorem exec_encodes_returns {i : Instr} {k : RegIndex} {r : RegRecord} {s : State} (h : Live s)
    (hi : encodes i = some (k, r)) : Returns i s (encodeReg s.params.layout k r) := by
  rw [Returns, exec_encodes hi, returnWord_live h]
  rfl

/-- Settles O44, from the one lemma for commands (`exec_armed`) and the one for steps (`step_armed`). -/
theorem onlyArmSetsArmed : Obligations.OnlyArmSetsArmed := by
  unfold Obligations.OnlyArmSetsArmed
  refine ⟨fun _ => rfl, fun s hl hb => ⟨_, execArm_idle hl hb, rfl⟩, fun s t i h hi => ?_, fun s t h ha => ?_,
    fun s t h ha ht => ?_, fun s i hl hb hi ha => exec_writer_unarmed hl hb ha hi, fun s i k r b hl hi => ?_⟩
  · exact (exec_armed h).resolve_right fun harm => hi harm.1
  · obtain hs | ⟨ht, -⟩ := step_armed h
    · exact hs.trans ha
    · exact ht
  · obtain hs | ⟨-, harm⟩ := step_armed h
    · rw [hs, ha] at ht
      cases ht
    · exact harm
  · exact ⟨_, exec_encodes_returns hl hi, exec_encodes_returns (s := { s with block := _ }) hl hi⟩

/-- Settles O43: the block's part of the table is `Block.reset` itself, and the receiver's entries are those of
replicated unknowns. -/
theorem resetLeavesTheTable : Obligations.ResetLeavesTheTable := by
  unfold Obligations.ResetLeavesTheTable
  intro p
  have hpins : ∀ q : Pin, pinLevel Block.reset.pins q = none := by intro q; cases q <;> rfl
  have hsr : ∀ i (h : i < 32), RxState.reset.sr[i] = none := fun i h => Vector.getElem_replicate h
  have hreg : ∀ k (h : k < 6), RxState.reset.reg[k] = none := fun k h => Vector.getElem_replicate h
  exact ⟨rfl, rfl, rfl, rfl, hpins, rfl, rfl, hsr, hreg, rfl⟩

end Sys2Proof.Machine
end

section
/-! PROOFS. What goes out over the pins (20_memory.md, 41_serial_writer.md): the run of one bit period, of all bits of a
word and of the word itself, each as the events it appends, and the levels the clock samples along those events. -/

namespace Sys2Proof.Machine

/-! The run of a word. -/

/-- The writer is sending the job `j` and the host asks nothing meanwhile. -/
def Sending (s : State) (j : Job) : Prop :=
  s.block.faults = [] ∧ s.block.busy = true ∧ s.block.job = some j ∧ s.host.requests = []

/-- A ready block sends bit 31 first once it has accepted a burst (41_serial_writer.md R66). -/
theorem sending_setBurst {s : State} (h : Ready s) (hq : s.host.requests = []) (w : Word) (ws : List Word) :
    Sending (setBurst w ws s) ⟨w, 31, .setup⟩ :=
  ⟨h.1.1, rfl, rfl, hq⟩

@[simp] theorem afterEvents_pending (s : State) (es : List Event) (j : Option Job) :
    (afterEvents s es j).block.pending = s.block.pending := rfl

/-- The writer keeps sending, whatever events and job a micro-step leaves. -/
theorem Sending.after_events {s : State} {j : Job} (h : Sending s j) (es : List Event) (k : Job) :
    Sending (afterEvents s es (some k)) k := by
  obtain ⟨hf, hb, -, hq⟩ := h
  exact ⟨hf, hb, rfl, hq⟩

/-- A sending writer takes its micro-step. -/
theorem Sending.reaches_one {s t : State} {j : Job} (h : Sending s j) (ht : microStep j s = t) : Reaches 1 s t := by
  obtain ⟨hf, hb, hj, hq⟩ := h
  exact reaches_succ (step_undisturbed hf hb hj hq) (ht ▸ reaches_zero _)

/-- A micro-step that appends the events `fs`, after a run that appended `es`. -/
theorem Sending.reaches_snoc {s : State} {i j k : Job} {n : Nat} {es fs : List Event} (h : Sending s i)
    (hr : Reaches n s (afterEvents s es (some j)))
    (hm : ∀ t : State, t.params = s.params → microStep j t = afterEvents t fs (some k)) :
    Reaches (n + 1) s (afterEvents s (es ++ fs) (some k)) := by
  rw [← afterEvents_append s es fs (some j) (some k)]
  exact reaches_trans hr ((h.after_events es j).reaches_one (hm _ rfl))

theorem fallStep_hold {s : State} (h : s.params.dataRelease = .hold) (j : Job) :
    fallStep j s = afterEvents s [.pin .clk .low, .wait] (some (nextBit j)) := by
  simp [fallStep, h, setJob_driveWait]

theorem fallStep_driveLow {s : State} (h : s.params.dataRelease = .driveLow) (j : Job) :
    fallStep j s = afterEvents s [.pin .clk .low, .wait] (some { j with phase := .release }) := by
  simp [fallStep, h, setJob_driveWait]

/-- The micro-steps of one bit period (41_serial_writer.md R74). -/
def bitSteps : DataRelease → Nat
  | .hold => 3
  | .driveLow => 4

theorem wordSteps_eq (release : DataRelease) : wordSteps release = 32 * bitSteps release + 1 + 1 := by
  cases release <;> rfl

/-- NextBit does not look at the phase it is called in (41_serial_writer.md R71). -/
theorem nextBit_phase (w : Word) (b : Fin 32) (p q : Phase) : nextBit ⟨w, b, p⟩ = nextBit ⟨w, b, q⟩ := by
  obtain ⟨n, hn⟩ := b
  cases n <;> rfl

/-- One bit period: from the Setup of a bit to what NextBit makes of the job (41_serial_writer.md R67 to R71). -/
theorem reaches_bit {s : State} {w : Word} {b : Fin 32} (h : Sending s ⟨w, b, .setup⟩) :
    Reaches (bitSteps s.params.dataRelease) s
      (afterEvents s (bitTrace s.params.dataRelease (w.getLsbD b.val)) (some (nextBit ⟨w, b, .fall⟩))) := by
  have hset : Reaches 1 s (afterEvents s [.pin .data (bitLevel (w.getLsbD b.val)), .wait] (some ⟨w, b, .rise⟩)) :=
    h.reaches_one (setJob_driveWait _ _ _ _)
  have hrise := h.reaches_snoc hset fun t _ => setJob_driveWait ⟨w, b, .fall⟩ .clk .high t
  cases hr : s.params.dataRelease with
  | hold =>
    have hfall := h.reaches_snoc hrise fun t ht => fallStep_hold (ht ▸ hr) ⟨w, b, .fall⟩
    exact hfall
  | driveLow =>
    have hfall := h.reaches_snoc hrise fun t ht => fallStep_driveLow (ht ▸ hr) ⟨w, b, .fall⟩
    have hrelease := h.reaches_snoc hfall fun t _ => setJob_driveWait (nextBit ⟨w, b, .release⟩) .data .low t
    rw [nextBit_phase w b .release .fall] at hrelease
    exact hrelease

/-- The bits `n` down to 0 of a word, and then its latch pulse is next (41_serial_writer.md R71). -/
theorem reaches_bits {s : State} {w : Word} {n : Nat} {hn : n < 32} (h : Sending s ⟨w, ⟨n, hn⟩, .setup⟩) :
    Reaches ((n + 1) * bitSteps s.params.dataRelease) s
      (afterEvents s (bitsTrace s.params.dataRelease w (n + 1)) (some ⟨w, 0, .latchHigh⟩)) := by
  induction n generalizing s with
  | zero =>
    simp only [bitsTrace, List.append_nil, Nat.zero_add, Nat.one_mul]
    exact reaches_bit h
  | succ n ih =>
    have hfirst := reaches_bit h
    have hnext := h.after_events (bitTrace s.params.dataRelease (w.getLsbD (n + 1))) (nextBit ⟨w, ⟨n + 1, hn⟩, .fall⟩)
    have hrest := ih hnext
    rw [afterEvents_append] at hrest
    rw [Nat.succ_mul (n + 1), Nat.add_comm]
    exact reaches_trans hfirst hrest

/-- A word from its first Setup through its LatchLow step, whatever is pending after it (41_serial_writer.md R74). -/
theorem reaches_latchLowStep {s : State} {w : Word} (h : Sending s ⟨w, 31, .setup⟩) :
    Reaches (wordSteps s.params.dataRelease) s
      (latchLowStep (afterEvents s (bitsTrace s.params.dataRelease w 32 ++ [.pin .le .high, .wait])
        (some ⟨w, 0, .latchLow⟩))) := by
  have hlatch := h.reaches_snoc (reaches_bits h) fun t _ => setJob_driveWait ⟨w, 0, .latchLow⟩ .le .high t
  rw [wordSteps_eq]
  exact reaches_trans hlatch ((h.after_events _ _).reaches_one rfl)

/-- The last word of a burst: its events are `wordTrace`, the block is idle after them, and Ok goes to the host
(41_serial_writer.md R73, R74). -/
theorem reaches_lastWord {s : State} {w : Word} (h : Sending s ⟨w, 31, .setup⟩) (hp : s.block.pending = []) :
    Reaches (wordSteps s.params.dataRelease) s
      (respond (.ok none) (clearBurst (afterEvents s (wordTrace s.params.dataRelease w) none))) := by
  have hrun := reaches_latchLowStep h
  rw [latchLowStep_last ((afterEvents_pending _ _ _).trans hp), driveWait_events, afterEvents_append,
    List.append_assoc] at hrun
  exact hrun

/-! The levels of DATA at the rising clock edges. -/

theorem bitLevel_eq_ite (b : Bool) : bitLevel b = if b = true then .high else .low := by
  cases b <;> rfl

/-- A bit period ends with CLK Low (41_serial_writer.md R69). -/
theorem pinsAfter_bitTrace_clk (release : DataRelease) (b : Bool) (ps : Pins) :
    (pinsAfter (bitTrace release b) ps).clk = some .low := by
  cases release <;> rfl

/-- A bit period that starts with CLK Low has one rising edge, and DATA has the bit's level there. -/
theorem clockedLevels_bitTrace (release : DataRelease) (b : Bool) {ps : Pins} (h : ps.clk = some .low) :
    clockedLevels ps (bitTrace release b) = [some (bitLevel b)] := by
  cases release <;> simp [bitTrace, clockedLevels, setPin, h]

/-- The clock samples the bits from `n - 1` down to 0. -/
theorem clockedLevels_bitsTrace (release : DataRelease) (w : Word) (n : Nat) {ps : Pins} (h : ps.clk = some .low) :
    clockedLevels ps (bitsTrace release w n) = (List.range n).reverse.map fun i => some (bitLevel (w.getLsbD i)) := by
  induction n generalizing ps with
  | zero => rfl
  | succ n ih =>
    rw [bitsTrace, clockedLevels_append, clockedLevels_bitTrace release _ h, ih (pinsAfter_bitTrace_clk release _ ps)]
    simp [List.range_succ]

/-- The latch pulse has no clock edge, so a word is clocked out as its 32 bits (41_serial_writer.md R72 to R74). -/
theorem clockedLevels_wordTrace (release : DataRelease) (w : Word) {ps : Pins} (h : ps.clk = some .low) :
    clockedLevels ps (wordTrace release w) = (List.range 32).reverse.map fun i => some (bitLevel (w.getLsbD i)) := by
  have hlatch : ∀ qs, clockedLevels qs [.pin .le .high, .wait, .pin .le .low, .wait] = [] := fun _ => rfl
  rw [wordTrace, clockedLevels_append, clockedLevels_bitsTrace release w 32 h, hlatch, List.append_nil]

/-- CLK is Low at an armed block without a job (41_serial_writer.md R75). -/
theorem PinInv.clk_low {s : State} (h : PinInv s) (ha : s.block.armed = true) (hj : s.block.job = none) :
    s.block.pins.clk = some .low := by
  obtain ⟨-, -, hidle, -⟩ := h ha
  exact (hidle hj).1

/-- Settles O29: the accepted word runs to its end (`reaches_lastWord`), its events are `wordTrace`, and the clock
samples that trace from bit 31 down to bit 0 (`clockedLevels_wordTrace`). -/
theorem wordGoesOutMsbFirst : Obligations.WordGoesOutMsbFirst := by
  unfold Obligations.WordGoesOutMsbFirst
  intro s w hready hjob hpins hq
  refine ⟨setBurst w [] s, _, wordTrace s.params.dataRelease w, acceptBurst_ready hready w [],
    reaches_lastWord (sending_setBurst hready hq w []) rfl, rfl, ?_⟩
  simp only [← bitLevel_eq_ite]
  exact clockedLevels_wordTrace _ w (PinInv.clk_low hpins hready.2.2 hjob)

end Sys2Proof.Machine
end

section
/-! PROOFS. The command port (30_encoding.md R52, R53): the check of the operand records, what is read back from a
command's encoding, the reserved codes, and the register number in an ENC code. -/

namespace Sys2Proof.Machine

/-! The check of the operand records. -/

theorem checkRecord_eq_ok_iff (l : Layout) (k : RegIndex) (r : RegRecord) :
    checkRecord l k r = .ok () ↔ recordWellFormed (layoutFields l k) r := by
  unfold checkRecord
  split_ifs with hknown honce
  · exact ⟨fun _ => ⟨hknown, honce⟩, fun _ => rfl⟩
  · exact ⟨nofun, fun h => absurd h.2 honce⟩
  · exact ⟨nofun, fun h => absurd h.1 hknown⟩

theorem checkRecords_cons_eq_ok_iff (l : Layout) (k : RegIndex) (r : RegRecord) (ps : List (RegIndex × RegRecord)) :
    checkRecords l ((k, r) :: ps) = .ok () ↔ checkRecord l k r = .ok () ∧ checkRecords l ps = .ok () := by
  rw [checkRecords]
  cases checkRecord l k r <;> simp

/-- The operand records pass the check exactly when each is well-formed for its register (30_encoding.md R53). -/
theorem checkRecords_eq_ok_iff (l : Layout) (ps : List (RegIndex × RegRecord)) :
    checkRecords l ps = .ok () ↔ ∀ p ∈ ps, recordWellFormed (layoutFields l p.1) p.2 := by
  induction ps with
  | nil => exact ⟨fun _ => nofun, fun _ => rfl⟩
  | cons p ps ih => rw [checkRecords_cons_eq_ok_iff, checkRecord_eq_ok_iff, ih, List.forall_mem_cons]

/-! What is read back from a command's encoding. -/

/-- The code with the command's own operands is read back as the command: `Laws.CommandCode` for every command. -/
theorem readCommand_encode (i : Instr) : readCommand (encode i) = .ok i := by
  cases i with
  | arm => exact Laws.CommandCode.arm.2
  | writeWord w => exact (Laws.CommandCode.writeWord w).2
  | writeAll r0 r1 r2 r3 r4 r5 => exact (Laws.CommandCode.writeAll r0 r1 r2 r3 r4 r5).2
  | writeR4R2 r4 r2 => exact (Laws.CommandCode.writeR4R2 r4 r2).2
  | encR0 r => exact (Laws.CommandCode.encR0 r).2
  | encR1 r => exact (Laws.CommandCode.encR1 r).2
  | encR2 r => exact (Laws.CommandCode.encR2 r).2
  | encR3 r => exact (Laws.CommandCode.encR3 r).2
  | encR4 r => exact (Laws.CommandCode.encR4 r).2
  | encR5 r => exact (Laws.CommandCode.encR5 r).2

/-- The encoding of a well-formed command decodes to the command (30_encoding.md R52, R53). -/
theorem decode_encode {l : Layout} {i : Instr} (h : i.WellFormed l) : decode l (encode i) = .ok i := by
  simp only [decode, readCommand_encode, (checkRecords_eq_ok_iff l i.records).2 h]

/-! The well-formed commands, by their records. -/

theorem wellFormed_writeAll_iff (l : Layout) (r0 r1 r2 r3 r4 r5 : RegRecord) :
    (Instr.writeAll r0 r1 r2 r3 r4 r5).WellFormed l ↔
      recordWellFormed (layoutFields l 0) r0 ∧ recordWellFormed (layoutFields l 1) r1 ∧
        recordWellFormed (layoutFields l 2) r2 ∧ recordWellFormed (layoutFields l 3) r3 ∧
        recordWellFormed (layoutFields l 4) r4 ∧ recordWellFormed (layoutFields l 5) r5 := by
  simp only [Instr.WellFormed, Instr.records, List.forall_mem_cons, List.not_mem_nil, false_imp_iff, implies_true,
    and_true]

theorem wellFormed_writeR4R2_iff (l : Layout) (r4 r2 : RegRecord) :
    (Instr.writeR4R2 r4 r2).WellFormed l ↔
      recordWellFormed (layoutFields l 4) r4 ∧ recordWellFormed (layoutFields l 2) r2 := by
  simp only [Instr.WellFormed, Instr.records, List.forall_mem_cons, List.not_mem_nil, false_imp_iff, implies_true,
    and_true]

/-- An encode command is well-formed when its one record is. -/
theorem wellFormed_iff_of_encodes {i : Instr} {k : RegIndex} {r : RegRecord} (he : encodes i = some (k, r))
    (l : Layout) : i.WellFormed l ↔ recordWellFormed (layoutFields l k) r := by
  have hrecords : i.records = [(k, r)] := by cases i <;> cases he <;> rfl
  rw [Instr.WellFormed, hrecords, List.forall_mem_singleton]

/-- An ENC code has `op[3]` set, and its low three bits are the register's number (30_encoding.md R52). -/
theorem codeOf_of_encodes {i : Instr} {k : RegIndex} {r : RegRecord} (he : encodes i = some (k, r)) :
    (codeOf i)[3] = true ∧ (codeOf i).toNat % 8 = k.val := by
  cases i <;> cases he <;> simp [codeOf]

/-! The reserved codes. -/

/-- A reserved code with `op[3]` set is refused as reserved, whatever its operands are: the register's number of a
single record is above 5, and any other operands are not looked at (30_encoding.md R52). -/
theorem readCommand_reservedEnc {d : Code} (hd : d = 0b1110#4 ∨ d = 0b1111#4) (ops : List Operand) :
    readCommand ⟨d, ops⟩ = .error (.reservedCode d) := by
  have hbit : d[3] = true := by obtain rfl | rfl := hd <;> rfl
  have hreserved : reservedCode d := .inr (.inr (.inr (.inr hd)))
  have hindex (r : RegRecord) : readEncode d r = .error (.reservedCode d) := by obtain rfl | rfl := hd <;> rfl
  rw [readCommand, if_pos hbit, if_pos hreserved]
  split
  · exact hindex _
  · rfl

/-- Every reserved code is refused as reserved, whatever its operands are (60_exceptions.md R91 (a)). -/
theorem readCommand_reserved {d : Code} (hd : reservedCode d) (ops : List Operand) :
    readCommand ⟨d, ops⟩ = .error (.reservedCode d) := by
  obtain rfl | rfl | rfl | rfl | henc := hd
  · simp [readCommand, readWriter]
  · simp [readCommand, readWriter]
  · simp [readCommand, readWriter]
  · simp [readCommand, readWriter]
  · exact readCommand_reservedEnc henc ops

theorem decode_reserved (l : Layout) {d : Code} (hd : reservedCode d) (ops : List Operand) :
    decode l ⟨d, ops⟩ = .error (.reservedCode d) := by
  simp only [decode, readCommand_reserved hd ops]

/-- Settles O54: each row is the encoding of its command, which decodes to it when its records fit (`decode_encode`); a
reserved code is refused before its operands are read (`decode_reserved`); and the register's number stands in the ENC
codes (`codeOf_of_encodes`). -/
theorem commandCodesOfTheTable : Obligations.CommandCodesOfTheTable := by
  unfold Obligations.CommandCodesOfTheTable
  intro l fits
  have henc {i : Instr} {k : RegIndex} {r : RegRecord} (he : encodes i = some (k, r)) (hr : fits k r) :
      decode l (encode i) = .ok i :=
    decode_encode ((wellFormed_iff_of_encodes he l).2 hr)
  refine ⟨?arm, ?writeWord, ?writeAll, ?writeR4R2, ?encR0, ?encR1, ?encR2, ?encR3, ?encR4, ?encR5,
    ?reserved, ?index⟩
  case arm => exact decode_encode (i := .arm) nofun
  case writeWord => exact fun w => decode_encode (i := .writeWord w) nofun
  case writeAll =>
    intro r0 r1 r2 r3 r4 r5 h0 h1 h2 h3 h4 h5
    exact decode_encode (i := .writeAll r0 r1 r2 r3 r4 r5)
      ((wellFormed_writeAll_iff l _ _ _ _ _ _).2 ⟨h0, h1, h2, h3, h4, h5⟩)
  case writeR4R2 =>
    intro r4 r2 h4 h2
    exact decode_encode (i := .writeR4R2 r4 r2) ((wellFormed_writeR4R2_iff l _ _).2 ⟨h4, h2⟩)
  case encR0 => exact fun r hr => henc (i := .encR0 r) rfl hr
  case encR1 => exact fun r hr => henc (i := .encR1 r) rfl hr
  case encR2 => exact fun r hr => henc (i := .encR2 r) rfl hr
  case encR3 => exact fun r hr => henc (i := .encR3 r) rfl hr
  case encR4 => exact fun r hr => henc (i := .encR4 r) rfl hr
  case encR5 => exact fun r hr => henc (i := .encR5 r) rfl hr
  case reserved => exact fun _ ops hd => decode_reserved l hd ops
  case index => exact fun _ _ _ he => codeOf_of_encodes he

end Sys2Proof.Machine
end

section
/-! PROOFS. The encoder (40_encoder.md): the index and the field parts as one number below 2^32, which bit of it comes
from where, what an encoded word depends on, and the six encode commands under the default layout. -/

namespace Sys2Proof.Machine

/-! The parts of the word, OR-combined (40_encoder.md R54). -/

theorem fieldParts_eq_foldr (r : RegRecord) (fs : List Field) :
    fieldParts r fs = (fs.map (fieldPart r)).foldr (· ||| ·) 0 := by
  induction fs with
  | nil => rfl
  | cons f fs ih => rw [fieldParts, ih]; rfl

/-- The OR taken from the left, as the rules of the six commands write it (40_encoder.md R59 to R64). -/
theorem or_fieldParts_eq_foldl (r : RegRecord) (fs : List Field) (n : Nat) :
    n ||| fieldParts r fs = fs.foldl (fun m f => m ||| fieldPart r f) n := by
  induction fs generalizing n with
  | nil => exact Nat.or_zero n
  | cons f fs ih => rw [fieldParts, ← Nat.or_assoc, ih, List.foldl_cons]

theorem encodeNat_eq_foldl (l : Layout) (k : RegIndex) (r : RegRecord) :
    encodeNat l k r = (layoutFields l k).foldl (fun m f => m ||| fieldPart r f) k.val :=
  or_fieldParts_eq_foldl r _ _

/-- The field `f` covers the bit `i`. -/
abbrev Covers (f : Field) (i : Nat) : Prop :=
  f.lsb ≤ i ∧ i < f.lsb + f.width

/-- A bit that no field covers gets nothing from the fields (30_encoding.md R41). -/
theorem fieldParts_testBit_uncovered {fs : List Field} {i : Nat} (h : ∀ f ∈ fs, ¬ Covers f i) (r : RegRecord) :
    (fieldParts r fs).testBit i = false := by
  rw [fieldParts_testBit, List.any_eq_false]
  intro f hf
  rw [fieldPart_testBit, decide_eq_false (h f hf)]
  exact Bool.false_ne_true

/-! The word holds the number, because no field passes bit 31 (30_encoding.md R40 (c)). -/

theorem fieldParts_lt_two_pow {fs : List Field} (h : ∀ f ∈ fs, fieldInBounds f) (r : RegRecord) :
    fieldParts r fs < 2 ^ 32 := by
  refine Nat.lt_pow_two_of_testBit _ fun i hi => fieldParts_testBit_uncovered (fun f hf => ?_) r
  have hbounds := h f hf
  omega

theorem encodeNat_lt_two_pow {l : Layout} (h : layoutWellFormed l) (k : RegIndex) (r : RegRecord) :
    encodeNat l k r < 2 ^ 32 := by
  obtain ⟨hbounds, -, -⟩ := h k
  exact Nat.or_lt_two_pow (by omega) (fieldParts_lt_two_pow hbounds r)

theorem encodeReg_toNat {l : Layout} (h : layoutWellFormed l) (k : RegIndex) (r : RegRecord) :
    (encodeReg l k r).toNat = encodeNat l k r := by
  rw [encodeReg, BitVec.toNat_ofNat, Nat.mod_eq_of_lt (encodeNat_lt_two_pow h k r)]

/-- Settles O7: the parts are a fold of OR (`fieldParts_eq_foldr`), and every part of a well-formed layout is below 2^32
(`encodeNat_lt_two_pow`). -/
theorem encodeIsIndexOrFields : Obligations.EncodeIsIndexOrFields := by
  unfold Obligations.EncodeIsIndexOrFields
  intro l k r terms
  refine ⟨?_, fun h => ⟨encodeNat_lt_two_pow h k r, encodeReg_toNat h k r⟩⟩
  exact congrArg (k.val ||| ·) (fieldParts_eq_foldr r _)

/-! The bits of the word, by where they come from. -/

/-- The index takes bits 2 to 0 only. -/
theorem regIndex_testBit_high (k : RegIndex) {i : Nat} (h : 3 ≤ i) : k.val.testBit i = false := by
  have hpow : 2 ^ 3 ≤ 2 ^ i := Nat.pow_le_pow_right (by omega) h
  exact Nat.testBit_lt_two_pow (by omega)

/-- No field puts anything below bit 3 (30_encoding.md R40 (b)). -/
theorem fieldParts_mod_eight {fs : List Field} (h : ∀ f ∈ fs, fieldInBounds f) (r : RegRecord) :
    fieldParts r fs % 2 ^ 3 = 0 := by
  refine Nat.eq_of_testBit_eq fun i => ?_
  rw [Nat.testBit_mod_two_pow, Nat.zero_testBit]
  by_cases hi : i < 3
  · rw [fieldParts_testBit_uncovered (fun f hf => ?_), Bool.and_false]
    have hbounds := h f hf
    omega
  · rw [decide_eq_false hi, Bool.false_and]

/-- Bits 2 to 0 are the register's number (40_encoder.md R55). -/
theorem encodeNat_mod_eight {l : Layout} (h : layoutWellFormed l) (k : RegIndex) (r : RegRecord) :
    encodeNat l k r % 2 ^ 3 = k.val := by
  obtain ⟨hbounds, -, -⟩ := h k
  rw [encodeNat, Nat.or_mod_two_pow, fieldParts_mod_eight hbounds, Nat.or_zero]
  omega

theorem indexOf_eq (w : Word) : indexOf w = w.toNat % 2 ^ 3 := rfl

/-- Settles O9: the fields leave bits 2 to 0 alone (`encodeNat_mod_eight`), and there are six registers. -/
theorem encodeKeepsIndexBits : Obligations.EncodeKeepsIndexBits := by
  unfold Obligations.EncodeKeepsIndexBits
  intro l k r h
  have hindex : (encodeReg l k r).toNat % 2 ^ 3 = k.val := by rw [encodeReg_toNat h, encodeNat_mod_eight h]
  rw [indexOf_eq, hindex]
  exact ⟨rfl, rfl, by omega⟩

/-- Two fields of a well-formed register that cover one bit are the same field (30_encoding.md R40 (d)). -/
theorem eq_of_covers {fs : List Field} (h : fieldsWellFormed fs) {f g : Field} (hf : f ∈ fs) (hg : g ∈ fs) {i : Nat}
    (hfi : Covers f i) (hgi : Covers g i) : g = f := by
  obtain ⟨-, hdisjoint, -⟩ := h
  by_contra hne
  have : Std.Symm fieldsDisjoint := ⟨fun _ _ => Or.symm⟩
  have hapart : fieldsDisjoint g f := hdisjoint.forall hg hf hne
  omega

/-- Two fields of a well-formed register with one name are the same field (30_encoding.md R40 (e)). -/
theorem eq_of_name_eq {fs : List Field} (h : fieldsWellFormed fs) {f g : Field} (hf : f ∈ fs) (hg : g ∈ fs)
    (hname : g.name = f.name) : g = f := by
  obtain ⟨-, -, hnames⟩ := h
  exact List.inj_on_of_nodup_map hnames hg hf hname

/-- A bit that a field covers is the field's own (30_encoding.md R41). -/
theorem encodeNat_testBit_covered {l : Layout} (h : layoutWellFormed l) {k : RegIndex} {f : Field}
    (hf : f ∈ layoutFields l k) (r : RegRecord) {i : Nat} (hi : Covers f i) :
    (encodeNat l k r).testBit i = (fieldPart r f).testBit i := by
  obtain ⟨hbounds, -, -⟩ := h k
  obtain ⟨-, -, hlsb, -⟩ := hbounds f hf
  rw [encodeNat_testBit, regIndex_testBit_high k (by omega), Bool.false_or]
  refine Bool.eq_iff_iff.2 (List.any_eq_true.trans ⟨fun ⟨g, hg, hbit⟩ => ?_, fun hbit => ⟨f, hf, hbit⟩⟩)
  have hgi : Covers g i := by
    rw [fieldPart_testBit, Bool.and_eq_true] at hbit
    exact of_decide_eq_true hbit.1
  rwa [eq_of_covers (h k) hf hg hi hgi] at hbit

/-- A bit above the index that no field covers is 0, under any layout (40_encoder.md R58 (b)). -/
theorem encodeReg_getLsbD_uncovered {l : Layout} {k : RegIndex} {i : Nat} (hi : 3 ≤ i)
    (h : ∀ f ∈ layoutFields l k, ¬ Covers f i) (r : RegRecord) : (encodeReg l k r).getLsbD i = false := by
  rw [encodeReg, BitVec.getLsbD_ofNat, encodeNat, Nat.testBit_or, regIndex_testBit_high k hi,
    fieldParts_testBit_uncovered h, Bool.or_false, Bool.and_false]

/-- The reserved bits of a register, given as a mask, are 0 in every word of it. -/
theorem encodeReg_and_mask {l : Layout} {k : RegIndex} {mask : Word}
    (h : ∀ i < 32, mask.getLsbD i = true → 3 ≤ i ∧ ∀ f ∈ layoutFields l k, ¬ Covers f i) (r : RegRecord) :
    encodeReg l k r &&& mask = 0#32 := by
  refine BitVec.eq_of_getLsbD_eq fun i hi => ?_
  rw [BitVec.getLsbD_and, BitVec.getLsbD_zero]
  cases hm : mask.getLsbD i with
  | false => exact Bool.and_false _
  | true =>
    obtain ⟨hlow, hfree⟩ := h i hi hm
    rw [encodeReg_getLsbD_uncovered hlow hfree, Bool.false_and]

/-! What the word depends on (40_encoder.md R56, R57). -/

/-- A field is read back as its value, cut to its width (40_encoder.md R58 (a)). -/
theorem slice_encodeReg {l : Layout} (h : layoutWellFormed l) {k : RegIndex} {f : Field}
    (hf : f ∈ layoutFields l k) (r : RegRecord) :
    slice (encodeReg l k r) f.lsb f.width = fieldValue r f.name % 2 ^ f.width := by
  refine Nat.eq_of_testBit_eq fun i => ?_
  rw [slice, encodeReg_toNat h, Nat.testBit_mod_two_pow, Nat.testBit_mod_two_pow, Nat.testBit_shiftRight]
  by_cases hi : i < f.width
  · have hcovers : Covers f (f.lsb + i) := by omega
    rw [encodeNat_testBit_covered h hf r hcovers, fieldPart_testBit, decide_eq_true hcovers, Bool.true_and,
      Nat.add_sub_cancel_left]
  · simp [hi]

theorem fieldParts_congr {r q : RegRecord} {fs : List Field}
    (h : ∀ f ∈ fs, fieldValue r f.name % 2 ^ f.width = fieldValue q f.name % 2 ^ f.width) :
    fieldParts r fs = fieldParts q fs := by
  induction fs with
  | nil => rfl
  | cons f fs ih =>
    obtain ⟨hf, hfs⟩ := List.forall_mem_cons.1 h
    rw [fieldParts, fieldParts, ih hfs, fieldPart, fieldPart, hf]

/-- Records that agree on every field, cut to its width, have one word. -/
theorem encodeReg_congr {l : Layout} {k : RegIndex} {r q : RegRecord}
    (h : ∀ f ∈ layoutFields l k, fieldValue r f.name % 2 ^ f.width = fieldValue q f.name % 2 ^ f.width) :
    encodeReg l k r = encodeReg l k q := by
  rw [encodeReg, encodeReg, encodeNat, encodeNat, fieldParts_congr h]

/-- A field set to `v` and to `v mod 2^w` gives one word (40_encoder.md R56). -/
theorem encodeReg_setField_mod {l : Layout} (h : layoutWellFormed l) {k : RegIndex} {f : Field}
    (hf : f ∈ layoutFields l k) (r : RegRecord) (v : Nat) :
    encodeReg l k (setField r f.name v) = encodeReg l k (setField r f.name (v % 2 ^ f.width)) := by
  refine encodeReg_congr fun g hg => ?_
  by_cases hname : g.name = f.name
  · obtain rfl := eq_of_name_eq (h k) hf hg hname
    rw [fieldValue_setField_same, fieldValue_setField_same, Nat.mod_mod]
  · rw [fieldValue_setField_other r hname, fieldValue_setField_other r hname]

/-- Settles O10: both commands return the word of `v` (`encodeReg_setField_mod`), and its slice at the field is the cut
value (`slice_encodeReg`). -/
theorem encodeTruncatesSilently : Obligations.EncodeTruncatesSilently := by
  unfold Obligations.EncodeTruncatesSilently
  intro s i j k r f v hlive hf hi hj
  have hlayout := hlive.2
  refine ⟨_, exec_encodes_returns hlive hi, ?_, ?_⟩
  · rw [encodeReg_setField_mod hlayout hf]
    exact exec_encodes_returns hlive hj
  · rw [slice_encodeReg hlayout hf, fieldValue_setField_same]

/-- Settles O12: the word that `exec_encodes_returns` gives names the layout and the record, and nothing else of the
state. -/
theorem encodeReadsOnlyItsOperand : Obligations.EncodeReadsOnlyItsOperand := by
  unfold Obligations.EncodeReadsOnlyItsOperand
  intro i k r hi s u hs hu hlayout
  refine ⟨_, exec_encodes_returns hs hi, ?_⟩
  rw [hlayout]
  exact exec_encodes_returns hu hi

/-! The six encode commands under the default layout (40_encoder.md R59 to R64). -/

/-- The word of a register of the default layout, with the OR taken from the left over its listed fields. -/
theorem encodeReg_default (k : RegIndex) (r : RegRecord) :
    encodeReg defaultLayout k r =
      BitVec.ofNat 32 ((layoutFields defaultLayout k).foldl (fun m f => m ||| fieldPart r f) k.val) := by
  rw [encodeReg, encodeNat_eq_foldl]

/-- A live block with the default layout answers an encode command with that layout's word. -/
theorem returns_default {i : Instr} {k : RegIndex} {r : RegRecord} {s : State} {w : Word} (hlive : Live s)
    (hlayout : s.params.layout = defaultLayout) (hi : encodes i = some (k, r)) (hw : encodeReg defaultLayout k r = w) :
    Returns i s w := by
  rw [← hw, ← hlayout]
  exact exec_encodes_returns hlive hi

/-- Settles O1: the word is `encodeReg_default` written out over the two fields of Reg0, which leave bit 31 free. -/
theorem encR0ReturnsItsWord : Obligations.EncR0ReturnsItsWord := by
  unfold Obligations.EncR0ReturnsItsWord
  intro s r hlive hlayout w
  have hw : encodeReg defaultLayout 0 r = w := encodeReg_default 0 r
  have hret {q : RegRecord} {v : Word} (hv : encodeReg defaultLayout 0 q = v) : Returns (.encR0 q) s v :=
    returns_default hlive hlayout rfl hv
  have hreserved : w.getLsbD 31 = false := hw ▸ encodeReg_getLsbD_uncovered (by decide) (by decide) r
  exact ⟨rfl, hret hw, hreserved, hret (by decide), hret (by decide), hret (by decide), hret (by decide),
    hret (by decide)⟩

/-- Settles O2: the word is `encodeReg_default` written out over the four fields of Reg1, which leave bits 31 to 29
free. -/
theorem encR1ReturnsItsWord : Obligations.EncR1ReturnsItsWord := by
  unfold Obligations.EncR1ReturnsItsWord
  intro s r hlive hlayout w
  have hw : encodeReg defaultLayout 1 r = w := encodeReg_default 1 r
  have hret {q : RegRecord} {v : Word} (hv : encodeReg defaultLayout 1 q = v) : Returns (.encR1 q) s v :=
    returns_default hlive hlayout rfl hv
  have hreserved : w &&& 0xE0000000#32 = 0#32 := hw ▸ encodeReg_and_mask (by decide) r
  exact ⟨rfl, hret hw, hreserved, hret (by decide), hret (by decide), hret (by decide), hret (by decide),
    hret (by decide)⟩

/-- Settles O3: the word is `encodeReg_default` written out over the thirteen fields of Reg2, which leave bit 31
free. -/
theorem encR2ReturnsItsWord : Obligations.EncR2ReturnsItsWord := by
  unfold Obligations.EncR2ReturnsItsWord
  intro s r hlive hlayout w
  have hw : encodeReg defaultLayout 2 r = w := encodeReg_default 2 r
  have hret {q : RegRecord} {v : Word} (hv : encodeReg defaultLayout 2 q = v) : Returns (.encR2 q) s v :=
    returns_default hlive hlayout rfl hv
  have hreserved : w.getLsbD 31 = false := hw ▸ encodeReg_getLsbD_uncovered (by decide) (by decide) r
  exact ⟨rfl, hret hw, hreserved, hret (by decide), hret (by decide), hret (by decide), hret (by decide),
    hret (by decide)⟩

/-- Settles O4: the word is `encodeReg_default` written out over the six fields of Reg3, which leave bits 31 to 24, 20,
19 and 17 free. -/
theorem encR3ReturnsItsWord : Obligations.EncR3ReturnsItsWord := by
  unfold Obligations.EncR3ReturnsItsWord
  intro s r hlive hlayout w
  have hw : encodeReg defaultLayout 3 r = w := encodeReg_default 3 r
  have hret {q : RegRecord} {v : Word} (hv : encodeReg defaultLayout 3 q = v) : Returns (.encR3 q) s v :=
    returns_default hlive hlayout rfl hv
  have hreserved : w &&& 0xFF1A0000#32 = 0#32 := hw ▸ encodeReg_and_mask (by decide) r
  exact ⟨rfl, hret hw, hreserved, hret (by decide), hret (by decide), hret (by decide)⟩

/-- Settles O5: the word is `encodeReg_default` written out over the ten fields of Reg4, which leave bits 31 to 24
free. -/
theorem encR4ReturnsItsWord : Obligations.EncR4ReturnsItsWord := by
  unfold Obligations.EncR4ReturnsItsWord
  intro s r hlive hlayout w
  have hw : encodeReg defaultLayout 4 r = w := encodeReg_default 4 r
  have hret {q : RegRecord} {v : Word} (hv : encodeReg defaultLayout 4 q = v) : Returns (.encR4 q) s v :=
    returns_default hlive hlayout rfl hv
  have hreserved : w &&& 0xFF000000#32 = 0#32 := hw ▸ encodeReg_and_mask (by decide) r
  exact ⟨rfl, hret hw, hreserved, hret (by decide), hret (by decide), hret (by decide), hret (by decide),
    hret (by decide), hret (by decide)⟩

/-- Settles O6: the word is `encodeReg_default` written out over the two fields of Reg5, which leave bits 31 to 24, 21
and 18 to 3 free. -/
theorem encR5ReturnsItsWord : Obligations.EncR5ReturnsItsWord := by
  unfold Obligations.EncR5ReturnsItsWord
  intro s r hlive hlayout w
  have hw : encodeReg defaultLayout 5 r = w := encodeReg_default 5 r
  have hret {q : RegRecord} {v : Word} (hv : encodeReg defaultLayout 5 q = v) : Returns (.encR5 q) s v :=
    returns_default hlive hlayout rfl hv
  have hreserved : w &&& 0xFF27FFF8#32 = 0#32 := hw ▸ encodeReg_and_mask (by decide) r
  exact ⟨rfl, hret hw, hreserved, hret (by decide), hret (by decide), hret (by decide)⟩

end Sys2Proof.Machine
end

section
/-! PROOFS. The serial writer (41_serial_writer.md): the block's answers to ARM and to a writer command, each micro-step
as one driven pin, what the steps leave of the job and of DATA, and the reference receiver's reaction to one event and
to a whole word. -/

namespace Sys2Proof.Machine

/-! A command that meets a busy block (60_exceptions.md R89). -/

/-- ARM and every writer command overlap with a running burst (60_exceptions.md R93). -/
theorem exec_busy {i : Instr} {s : State} (h : Live s) (hb : s.block.busy = true) (hi : encodes i = none) :
    exec i s = .next (raiseFault .overlap s) := by
  obtain rfl | hw | ⟨k, r, he⟩ := instr_kinds i
  · simp only [exec, execArm, receive_live h, unlessBusy_busy hb]
  · obtain ⟨w, ws, -, hx⟩ := exec_writer hw s
    rw [hx, acceptBurst, receive_live h, unlessBusy_busy hb]
  · rw [he] at hi
    cases hi

/-- The overlap is the one fault that a live block holds afterwards, and it stops the machine
(60_exceptions.md R89, R90). -/
theorem overlaps_of_busy {i : Instr} {s : State} (h : Live s) (hb : s.block.busy = true) (hi : encodes i = none) :
    Overlaps i s := by
  have hfaults : (addFault .overlap s).block.faults = [.overlap] := by rw [addFault_faults, h.1]; rfl
  refine ⟨_, exec_busy h hb hi, ?_, step_faulted (fs := []) hfaults⟩
  simp [raiseFault, respond, addFault, h.1]

/-! The receiver's reaction to one event (41_serial_writer.md R76). -/

theorem isCommitEdge_iff (edge : CommitEdge) (before : Pins) (v : Level) :
    isCommitEdge edge before v = true ↔
      edge = .rise ∧ before.le = some .low ∧ v = .high ∨ edge = .fall ∧ before.le = some .high ∧ v = .low := by
  unfold isCommitEdge
  split <;> simp_all

theorem rxOnPin_clk_high (edge : CommitEdge) (before : Pins) (rx : RxState) :
    rxOnPin edge before .clk .high rx = rxClock before rx := rfl

theorem rxOnPin_le (edge : CommitEdge) (before : Pins) (v : Level) (rx : RxState) :
    rxOnPin edge before .le v rx = if isCommitEdge edge before v then rxCommit rx else rx := by
  cases v <;> rfl

/-- Only a clock that goes High, and was not High, and a commit edge of LE change the receiver. -/
theorem rxOnPin_quiet {edge : CommitEdge} {before : Pins} {p : Pin} {v : Level}
    (hclk : ¬ (p = .clk ∧ v = .high ∧ before.clk ≠ some .high)) (hle : p = .le → isCommitEdge edge before v = false)
    (rx : RxState) : rxOnPin edge before p v rx = rx := by
  cases p with
  | cs => rfl
  | data => rfl
  | le => rw [rxOnPin_le, hle rfl, if_neg Bool.false_ne_true]
  | clk =>
    cases v with
    | low => rfl
    | high =>
      have hhigh : before.clk = some .high := by simpa using hclk
      simp only [rxOnPin_clk_high, rxClock, hhigh]

/-! ARM (41_serial_writer.md R65). -/

/-- The eight events of ARM. -/
def armTrace (cs : Level) : List Event :=
  [.pin .cs cs, .wait, .pin .le .low, .wait, .pin .clk .low, .wait, .pin .data .low, .wait]

@[simp] theorem afterEvents_job (s : State) (es : List Event) (j : Option Job) :
    (afterEvents s es j).block.job = j := rfl

theorem armPins_events (s : State) : armPins s = afterEvents s (armTrace s.params.csActive) s.block.job := by
  simp [armPins, driveWait_events, afterEvents_append, armTrace]

/-- ARM leaves the job as it was. -/
theorem armPins_job (s : State) : (armPins s).block.job = s.block.job := by
  rw [armPins_events, afterEvents_job]

/-- ARM is no clock edge, and no commit unless LE was High. -/
theorem replay_armTrace {edge : CommitEdge} {cs : Level} {ps : Pins} (h : ps.le ≠ some .high) (rx : RxState) :
    (replay edge (armTrace cs) (ps, rx)).2 = rx := by
  have hle : isCommitEdge edge (setPin ps cs .cs) .low = false := by
    rw [← Bool.not_eq_true, isCommitEdge_iff]
    simp [setPin, h]
  exact rxOnPin_quiet (p := .le) (by simp) (fun _ => hle) rx

/-- Settles O13: the overlap is `overlaps_of_busy`, and an idle block drives `armTrace` (`armPins_events`), which the
receiver does not see (`replay_armTrace`). -/
theorem armDrivesTheFourPins : Obligations.ArmDrivesTheFourPins := by
  unfold Obligations.ArmDrivesTheFourPins
  intro s h es
  refine ⟨rfl, fun hb => overlaps_of_busy h hb rfl, fun hb => ⟨_, execArm_idle h hb, ?_, fun hle => ?_, rfl⟩⟩
  · rw [armPins_events]
    rfl
  · rw [armPins_events]
    exact replay_armTrace hle s.rx

/-! What a commit does with the shift register (41_serial_writer.md R76). -/

theorem allKnown_eq_none {l : List (Option Bool)} (h : none ∈ l) : allKnown l = none := by
  induction l with
  | nil => cases h
  | cons b bs ih =>
    cases b with
    | none => rfl
    | some b =>
      have hbs : none ∈ bs := by simpa using h
      simp [allKnown, ih hbs]

/-- A shift register with an unknown bit holds no word. -/
theorem srWord_eq_none {sr : Vector (Option Bool) 32} {i : Nat} {h : i < 32} (hi : sr[i] = none) :
    srWord sr = none := by
  have hmem : none ∈ sr.toList := hi ▸ Vector.mem_toList_iff.2 (Vector.getElem_mem h)
  rw [srWord, allKnown_eq_none hmem]

/-- A shift register all of whose bits are those of a word holds the word. -/
theorem eq_srOfWord {sr : Vector (Option Bool) 32} {w : Word} (h : ∀ i (hi : i < 32), sr[i] = some (w.getLsbD i)) :
    sr = srOfWord w :=
  Vector.ext fun i hi => (h i hi).trans (srOfWord_get w i hi).symm

@[simp] theorem rxCommit_sr (rx : RxState) : (rxCommit rx).sr = rx.sr := by
  unfold rxCommit
  split <;> rfl

theorem rxCommit_word (reg : Vector (Option Word) 6) (w : Word) :
    rxCommit ⟨srOfWord w, reg⟩ = ⟨srOfWord w, commitWord reg w⟩ := by
  simp only [rxCommit, srWord_srOfWord]

theorem rxCommit_unknown {rx : RxState} {i : Nat} {h : i < 32} (hi : rx.sr[i] = none) :
    (rxCommit rx).reg = unknownRegs := by
  simp only [rxCommit, srWord_eq_none hi]

theorem commitWord_register (reg : Vector (Option Word) 6) {w : Word} (h : w.toNat % 8 < 6) :
    commitWord reg w = reg.set (w.toNat % 8) (some w) h :=
  dif_pos h

theorem commitWord_noRegister (reg : Vector (Option Word) 6) {w : Word} (h : 6 ≤ w.toNat % 8) :
    commitWord reg w = unknownRegs :=
  dif_neg (Nat.not_lt.2 h)

theorem unknownRegs_get (k : Nat) (h : k < 6) : unknownRegs[k] = none :=
  Vector.getElem_replicate h

theorem levelBit_eq_decide (v : Level) : levelBit v = decide (v = .high) := by
  cases v <;> rfl

/-- Settles O27: the clock is `rxClock` by its level before, a commit edge (`isCommitEdge_iff`) is `rxCommit` on a known
or an unknown shift register, and every other event is quiet (`rxOnPin_quiet`). -/
theorem receiverReactsToPinEvents : Obligations.ReceiverReactsToPinEvents := by
  unfold Obligations.ReceiverReactsToPinEvents
  intro s p v t commits
  have hcommit (h : commits) : t.rx = rxCommit s.rx := by
    obtain ⟨rfl, hedge⟩ := h
    exact (rxOnPin_le _ _ v _).trans (if_pos ((isCommitEdge_iff _ _ v).2 hedge))
  refine ⟨?rise, ?unknown, fun h => ⟨?sr, ?known, ?unknownBit⟩, ?quiet⟩
  case rise =>
    rintro rfl rfl hclk
    have hrx : t.rx = { s.rx with sr := shiftIn s.rx.sr (s.block.pins.data.map levelBit) } := by
      simp only [t, drive_rx, rxOnPin_clk_high, rxClock, hclk]
    rw [hrx]
    refine ⟨rfl, ?_, fun i hi => ?_⟩
    · rw [shiftIn_get, if_pos rfl, funext levelBit_eq_decide]
    · exact shiftIn_get _ _ (i + 1) hi
  case unknown =>
    rintro rfl rfl hclk
    have hrx : t.rx = { s.rx with sr := Vector.replicate 32 none } := by
      simp only [t, drive_rx, rxOnPin_clk_high, rxClock, hclk]
    rw [hrx]
    exact ⟨rfl, fun i hi => Vector.getElem_replicate hi⟩
  case sr => rw [hcommit h, rxCommit_sr]
  case known =>
    intro w hw
    have hreg : t.rx.reg = commitWord s.rx.reg w := by
      have hsr : s.rx = ⟨srOfWord w, s.rx.reg⟩ := congrArg (RxState.mk · s.rx.reg) (eq_srOfWord hw)
      rw [hcommit h, hsr, rxCommit_word]
    rw [hreg]
    refine ⟨fun hindex => commitWord_register _ hindex, fun hindex k hk => ?_⟩
    simp only [commitWord_noRegister _ hindex, unknownRegs_get]
  case unknownBit =>
    rintro ⟨i, hi, hbit⟩ k hk
    simp only [hcommit h, rxCommit_unknown hbit, unknownRegs_get]
  case quiet =>
    intro hclk hno
    refine rxOnPin_quiet hclk (fun hp => ?_) s.rx
    rw [← Bool.not_eq_true, isCommitEdge_iff]
    exact fun hedge => hno ⟨hp, hedge⟩

/-! The receiver over a whole word (41_serial_writer.md R74 to R76). -/

/-- The shift register after the bits `n - 1` down to 0 of a word. -/
def shiftBits (w : Word) : Nat → Vector (Option Bool) 32 → Vector (Option Bool) 32
  | 0, sr => sr
  | n + 1, sr => shiftBits w n (shiftIn sr (some (w.getLsbD n)))

/-- The bits sent are at the bottom, and what was there before has moved up. -/
theorem shiftBits_get (w : Word) (n : Nat) (sr : Vector (Option Bool) 32) (i : Nat) (h : i < 32) :
    (shiftBits w n sr)[i] = if i < n then some (w.getLsbD i) else sr[i - n] := by
  induction n generalizing sr with
  | zero => simp [shiftBits]
  | succ n ih =>
    simp only [shiftBits, ih, shiftIn_get]
    obtain hi | rfl | hi := Nat.lt_trichotomy i n
    · simp [hi, Nat.lt_succ_of_lt hi]
    · simp
    · simp [Nat.not_lt.2 hi.le, Nat.not_lt.2 (Nat.succ_le_of_lt hi), Nat.sub_ne_zero_of_lt hi, Nat.sub_sub]

/-- After all 32 bits nothing is left of what the register held. -/
theorem shiftBits_all (w : Word) (sr : Vector (Option Bool) 32) : shiftBits w 32 sr = srOfWord w :=
  eq_srOfWord fun i hi => by rw [shiftBits_get, if_pos hi]

/-- A bit period that starts with CLK Low shifts in its bit and commits nothing. -/
theorem replay_bitTrace (edge : CommitEdge) (release : DataRelease) (b : Bool) {ps : Pins} (h : ps.clk = some .low)
    (rx : RxState) :
    replay edge (bitTrace release b) (ps, rx) =
      (pinsAfter (bitTrace release b) ps, { rx with sr := shiftIn rx.sr (some b) }) := by
  have hbit : levelBit (bitLevel b) = b := by cases b <;> rfl
  cases release <;> simp [bitTrace, replay, pinsAfter, rxOnPin, rxClock, setPin, h, hbit]

theorem replay_bitsTrace (edge : CommitEdge) (release : DataRelease) (w : Word) (n : Nat) {ps : Pins}
    (h : ps.clk = some .low) (rx : RxState) :
    replay edge (bitsTrace release w n) (ps, rx) =
      (pinsAfter (bitsTrace release w n) ps, { rx with sr := shiftBits w n rx.sr }) := by
  induction n generalizing ps rx with
  | zero => rfl
  | succ n ih =>
    rw [bitsTrace, replay_append, pinsAfter_append, replay_bitTrace edge release _ h,
      ih (pinsAfter_bitTrace_clk release _ ps)]
    rfl

/-- The bits of a word leave LE alone (41_serial_writer.md R75 (b)). -/
theorem pinsAfter_bitsTrace_le (release : DataRelease) (w : Word) (n : Nat) (ps : Pins) :
    (pinsAfter (bitsTrace release w n) ps).le = ps.le := by
  induction n generalizing ps with
  | zero => rfl
  | succ n ih =>
    have hbit : (pinsAfter (bitTrace release (w.getLsbD n)) ps).le = ps.le := by cases release <;> rfl
    rw [bitsTrace, pinsAfter_append, ih, hbit]

/-- The latch pulse has one commit edge, whichever of its two edges commits. -/
theorem replay_latchPulse (edge : CommitEdge) {ps : Pins} (h : ps.le = some .low) (rx : RxState) :
    (replay edge [.pin .le .high, .wait, .pin .le .low, .wait] (ps, rx)).2 = rxCommit rx := by
  cases edge <;> simp [replay, rxOnPin, isCommitEdge, setPin, h]

/-- A word that starts with CLK and LE Low leaves the receiver holding it, and committed by its index. -/
theorem replay_wordTrace (edge : CommitEdge) (release : DataRelease) (w : Word) {ps : Pins} (hclk : ps.clk = some .low)
    (hle : ps.le = some .low) (rx : RxState) :
    (replay edge (wordTrace release w) (ps, rx)).2 = ⟨srOfWord w, commitWord rx.reg w⟩ := by
  rw [wordTrace, replay_append, replay_bitsTrace edge release w 32 hclk,
    replay_latchPulse edge ((pinsAfter_bitsTrace_le release w 32 ps).trans hle), shiftBits_all, rxCommit_word]

/-! WRITE_WORD (41_serial_writer.md R66). -/

/-- A word whose bits each take three pin events and three waits, and its latch pulse: 196 events
(41_serial_writer.md R74). -/
theorem length_wordTrace_hold (w : Word) : (wordTrace .hold w).length = 196 := by
  have hbits (n : Nat) : (bitsTrace .hold w n).length = n * 6 := by
    induction n with
    | zero => rfl
    | succ n ih => rw [bitsTrace, List.length_append, ih, Nat.succ_mul, Nat.add_comm]; rfl
  rw [wordTrace, List.length_append, hbits]
  rfl

theorem burstTrace_singleton (release : DataRelease) (w : Word) : burstTrace release [w] = wordTrace release w :=
  List.append_nil _

/-- The burst of one word leaves exactly the state of `afterBurst`. -/
theorem reaches_afterBurst_word {s : State} (h : Ready s) (hq : s.host.requests = []) (w : Word) :
    Reaches (wordSteps s.params.dataRelease) (setBurst w [] s) (afterBurst s w []) := by
  have hrun := reaches_lastWord (sending_setBurst h hq w []) rfl
  rw [afterBurst, burstTrace_singleton]
  exact hrun

/-- LE is Low at an armed block without a job (41_serial_writer.md R75). -/
theorem PinInv.le_low {s : State} (h : PinInv s) (ha : s.block.armed = true) (hj : s.block.job = none) :
    s.block.pins.le = some .low := by
  obtain ⟨-, -, hidle, -⟩ := h ha
  exact (hidle hj).2

theorem afterBurst_word_rx {s : State} {w : Word} (hclk : s.block.pins.clk = some .low)
    (hle : s.block.pins.le = some .low) : (afterBurst s w []).rx = ⟨srOfWord w, commitWord s.rx.reg w⟩ := by
  simp only [afterBurst, burstTrace_singleton]
  exact replay_wordTrace _ _ w hclk hle s.rx

/-- Settles O14: the checks of a writer command, the run of its one word (`reaches_afterBurst_word`), and for the
example the length of its trace and what the receiver commits (`afterBurst_word_rx`). -/
theorem writeWordSendsTheWord : Obligations.WriteWordSendsTheWord := by
  unfold Obligations.WriteWordSendsTheWord
  intro s w hlive
  refine ⟨rfl, fun hb => overlaps_of_busy hlive hb rfl, fun hb ha => exec_writer_unarmed hlive hb ha rfl,
    fun hb ha => ?_⟩
  have hready : Ready s := ⟨hlive, hb, ha⟩
  refine ⟨acceptBurst_ready hready w [], fun hq => ⟨reaches_afterBurst_word hready hq w, ?sent⟩⟩
  case sent =>
    rintro hhold hjob hpins rfl
    have hrx := afterBurst_word_rx (w := 0x00580005#32) (PinInv.clk_low hpins ha hjob) (PinInv.le_low hpins ha hjob)
    refine ⟨?_, ?_⟩
    · simp only [afterBurst, burstTrace_singleton, List.length_append, hhold, length_wordTrace_hold]
    · simp only [hrx]
      exact Vector.getElem_set_self _

/-! The micro-steps, by the phase (41_serial_writer.md R67 to R73). -/

theorem microStep_setup {j : Job} (h : j.phase = .setup) (s : State) :
    microStep j s = afterEvents s [.pin .data (bitLevel (j.word.getLsbD j.bit.val)), .wait]
      (some { j with phase := .rise }) := by
  simp only [microStep, h, setupStep, setJob_driveWait]

theorem microStep_rise {j : Job} (h : j.phase = .rise) (s : State) :
    microStep j s = afterEvents s [.pin .clk .high, .wait] (some { j with phase := .fall }) := by
  simp only [microStep, h, riseStep, setJob_driveWait]

theorem microStep_fall {j : Job} (h : j.phase = .fall) (s : State) : microStep j s = fallStep j s := by
  simp only [microStep, h]

theorem microStep_release {j : Job} (h : j.phase = .release) (s : State) :
    microStep j s = afterEvents s [.pin .data .low, .wait] (some (nextBit j)) := by
  simp only [microStep, h, releaseStep, setJob_driveWait]

theorem microStep_latchHigh {j : Job} (h : j.phase = .latchHigh) (s : State) :
    microStep j s = afterEvents s [.pin .le .high, .wait] (some { j with phase := .latchLow }) := by
  simp only [microStep, h, latchHighStep, setJob_driveWait]

theorem microStep_latchLow {j : Job} (h : j.phase = .latchLow) (s : State) : microStep j s = latchLowStep s := by
  simp only [microStep, h]

/-- The writer's step, when its micro-step is one pin event, a wait and the next job. -/
theorem step_afterMicro {s : State} {j k : Job} {p : Pin} {v : Level} (h : WriterMoves s j)
    (hm : ∀ t : State, t.params = s.params → microStep j t = afterEvents t [.pin p v, .wait] (some k)) :
    step s = .next (afterMicro s p v (some k)) := by
  rw [step_writer h, hm (setRequests (countDown s.host.requests) s) rfl]
  rfl

/-- The Fall step under Hold (41_serial_writer.md R69). -/
theorem step_fall_hold {s : State} {j : Job} (h : WriterMoves s j) (hj : j.phase = .fall)
    (hhold : s.params.dataRelease = .hold) : step s = .next (afterMicro s .clk .low (some (nextBit j))) :=
  step_afterMicro h fun t ht => (microStep_fall hj t).trans (fallStep_hold (ht ▸ hhold) j)

/-- The Release step (41_serial_writer.md R70). -/
theorem step_release {s : State} {j : Job} (h : WriterMoves s j) (hj : j.phase = .release) :
    step s = .next (afterMicro s .data .low (some (nextBit j))) :=
  step_afterMicro h fun t _ => microStep_release hj t

/-- Settles O15: the Setup step is one event (`microStep_setup`) of DATA, which the receiver does not react to. -/
theorem setupPutsTheBitOnData : Obligations.SetupPutsTheBitOnData := by
  unfold Obligations.SetupPutsTheBitOnData
  intro s j h hj
  rw [← bitLevel_eq_ite]
  exact ⟨_, step_afterMicro h fun t _ => microStep_setup hj t, rfl, rfl⟩

/-- Settles O16: the Rise step is one event (`microStep_rise`) of CLK. -/
theorem riseRaisesTheClock : Obligations.RiseRaisesTheClock := by
  unfold Obligations.RiseRaisesTheClock
  intro s j h hj
  exact ⟨_, step_afterMicro h fun t _ => microStep_rise hj t, rfl, rfl⟩

/-- Settles O17: the Fall step is one event of CLK, and the job after it is that of the release
(`fallStep_driveLow`, `step_fall_hold`). -/
theorem fallLowersTheClock : Obligations.FallLowersTheClock := by
  unfold Obligations.FallLowersTheClock
  intro s j h hj
  refine ⟨fun hlow => ?_, step_fall_hold h hj⟩
  exact step_afterMicro h fun t ht => (microStep_fall hj t).trans (fallStep_driveLow (ht ▸ hlow) j)

/-- Settles O20: the LatchHigh step is one event (`microStep_latchHigh`) of LE. -/
theorem latchHighRaisesLatchEnable : Obligations.LatchHighRaisesLatchEnable := by
  unfold Obligations.LatchHighRaisesLatchEnable
  exact fun s j h hj => step_afterMicro h fun t _ => microStep_latchHigh hj t

/-- Settles O21: LatchLow by what is pending (`latchLowStep_more`, `latchLowStep_last`), its drive as events
(`driveWait_events`). -/
theorem latchLowEndsTheWord : Obligations.LatchLowEndsTheWord := by
  unfold Obligations.LatchLowEndsTheWord
  intro s j h hj
  refine ⟨fun w rest hp => ⟨_, step_writer h, ?_⟩, fun hp => ⟨_, step_writer h, ?_⟩⟩
  · rw [microStep_latchLow hj, latchLowStep_more ((setRequests_pending _ s).trans hp), driveWait_events]
    rfl
  · rw [microStep_latchLow hj, latchLowStep_last ((setRequests_pending _ s).trans hp), driveWait_events]
    rfl

/-! NextBit (41_serial_writer.md R71). -/

theorem nextBit_last {j : Job} (h : j.bit.val = 0) : nextBit j = { j with phase := .latchHigh } := by
  obtain ⟨w, ⟨n, hn⟩, p⟩ := j
  obtain rfl : n = 0 := h
  rfl

theorem nextBit_lower {j : Job} (h : 0 < j.bit.val) :
    nextBit j = ⟨j.word, ⟨j.bit.val - 1, by omega⟩, .setup⟩ := by
  obtain ⟨w, ⟨n, hn⟩, p⟩ := j
  obtain ⟨m, rfl⟩ : ∃ m, n = m + 1 := Nat.exists_eq_add_one.2 h
  rfl

theorem nextBit_phase_ne_release (j : Job) : (nextBit j).phase ≠ .release := by
  obtain h | h := Nat.eq_zero_or_pos j.bit.val
  · rw [nextBit_last h]
    nofun
  · rw [nextBit_lower h]
    nofun

/-- Settles O19: both steps that call NextBit leave its job (`step_fall_hold`, `step_release`), which is
`nextBit_lower` or `nextBit_last`. -/
theorem nextBitCountsDown : Obligations.NextBitCountsDown := by
  unfold Obligations.NextBitCountsDown
  intro s j h hcalls
  have hstep : ∃ p, step s = .next (afterMicro s p .low (some (nextBit j))) := by
    obtain ⟨hj, hhold⟩ | hj := hcalls
    · exact ⟨_, step_fall_hold h hj hhold⟩
    · exact ⟨_, step_release h hj⟩
  obtain ⟨p, hs⟩ := hstep
  refine ⟨_, nextBit j, hs, rfl, ?_⟩
  obtain hbit | hbit := Nat.eq_zero_or_pos j.bit.val
  · rw [nextBit_last hbit]
    exact ⟨rfl, fun hpos => absurd hbit hpos.ne', fun _ => ⟨rfl, rfl⟩⟩
  · rw [nextBit_lower hbit]
    exact ⟨rfl, fun _ => ⟨rfl, rfl⟩, fun hzero => absurd hzero hbit.ne'⟩

/-! The job and DATA under Hold (41_serial_writer.md R70). -/

/-- What a step can do to the block: nothing, what an arriving command does, or a micro-step. -/
theorem step_block {s t : State} (h : step s = .next t) :
    t.block = s.block ∨
      (∃ c rest i, Arrives s c rest ∧ decode s.params.layout c = .ok i ∧ exec i (setRequests rest s) = .next t) ∨
      (∃ j, WriterMoves s j ∧ t = microStep j (setRequests (countDown s.host.requests) s)) := by
  obtain ⟨hf, ⟨a, c, rest, hq, hd, ⟨e, -, rfl⟩ | ⟨i, hi, hx⟩⟩ | ⟨a, src, rest, -, rfl⟩ | ⟨a, p, rest, -, rfl⟩ |
    hj | rfl⟩ := step_next h
  · exact .inl rfl
  · exact .inr (.inl ⟨c, rest, i, ⟨hf, a, hq, hd⟩, hi, hx⟩)
  · exact .inl (runText_block _ _)
  · exact .inl (runPseudo_block _ _)
  · exact .inr (.inr hj)
  · exact .inl rfl

/-- A command leaves the job as it was, or starts a burst at a Setup. -/
theorem exec_job {i : Instr} {s t : State} (h : exec i s = .next t) :
    t.block.job = s.block.job ∨ ∃ w, t.block.job = some ⟨w, 31, .setup⟩ := by
  obtain ⟨-, rfl | ⟨-, rfl, -⟩ | ⟨-, -, rfl, -⟩ | ⟨-, -, -, w, ws, -, rfl⟩ | ⟨-, -, rfl⟩ | ⟨k, r, -, rfl⟩⟩ :=
    exec_next h
  · exact .inl rfl
  · exact .inl rfl
  · exact .inl rfl
  · exact .inr ⟨w, rfl⟩
  · exact .inl (armPins_job s)
  · exact .inl rfl

/-- A command drives no pin, unless it is ARM at an idle block. -/
theorem exec_pins {i : Instr} {s t : State} (h : exec i s = .next t) :
    t.block.pins = s.block.pins ∨ (s.block.busy = false ∧ i = .arm) := by
  obtain ⟨-, rfl | ⟨-, rfl, -⟩ | ⟨-, -, rfl, -⟩ | ⟨-, -, -, w, ws, -, rfl⟩ | ⟨hb, hi, -⟩ | ⟨k, r, -, rfl⟩⟩ :=
    exec_next h
  · exact .inl rfl
  · exact .inl rfl
  · exact .inl rfl
  · exact .inl rfl
  · exact .inr ⟨hb, hi⟩
  · exact .inl rfl

/-- A LatchLow step leaves the Setup of the next word, or no job. -/
theorem latchLowStep_job (s : State) :
    (latchLowStep s).block.job = none ∨ ∃ w, (latchLowStep s).block.job = some ⟨w, 31, .setup⟩ := by
  cases hp : s.block.pending with
  | nil => exact .inl (by rw [latchLowStep_last hp]; rfl)
  | cons w rest => exact .inr ⟨w, by rw [latchLowStep_more hp]; rfl⟩

theorem latchLowStep_data (s : State) : (latchLowStep s).block.pins.data = s.block.pins.data := by
  cases hp : s.block.pending with
  | nil => rw [latchLowStep_last hp]; rfl
  | cons w rest => rw [latchLowStep_more hp]; rfl

/-- Under Hold no micro-step enters Release. -/
theorem microStep_job_hold {s : State} (hhold : s.params.dataRelease = .hold) (j : Job) :
    ∀ k ∈ (microStep j s).block.job, k.phase ≠ .release := by
  cases hj : j.phase with
  | setup => rw [microStep_setup hj]; rintro k ⟨⟩; nofun
  | rise => rw [microStep_rise hj]; rintro k ⟨⟩; nofun
  | fall =>
    rw [microStep_fall hj, fallStep_hold hhold]
    rintro k ⟨⟩
    exact nextBit_phase_ne_release j
  | release =>
    rw [microStep_release hj]
    rintro k ⟨⟩
    exact nextBit_phase_ne_release j
  | latchHigh => rw [microStep_latchHigh hj]; rintro k ⟨⟩; nofun
  | latchLow =>
    rw [microStep_latchLow hj]
    obtain hnone | ⟨w, hnext⟩ := latchLowStep_job s
    · rw [hnone]; nofun
    · rw [hnext]; rintro k ⟨⟩; nofun

/-- DATA moves at Setup and at Release only. -/
theorem microStep_data {j : Job} (hsetup : j.phase ≠ .setup) (hrelease : j.phase ≠ .release) (s : State) :
    (microStep j s).block.pins.data = s.block.pins.data := by
  cases hj : j.phase with
  | setup => exact absurd hj hsetup
  | rise => rw [microStep_rise hj]; rfl
  | fall => rw [microStep_fall hj]; unfold fallStep; split <;> rfl
  | release => exact absurd hj hrelease
  | latchHigh => rw [microStep_latchHigh hj]; rfl
  | latchLow => rw [microStep_latchLow hj]; exact latchLowStep_data s

/-- No step under Hold brings a job into Release. -/
theorem step_job_hold {s t : State} (h : step s = .next t) (hhold : s.params.dataRelease = .hold)
    (hjob : ∀ j ∈ s.block.job, j.phase ≠ .release) : ∀ j ∈ t.block.job, j.phase ≠ .release := by
  obtain hblock | ⟨c, rest, i, -, -, hx⟩ | ⟨j, -, rfl⟩ := step_block h
  · rw [hblock]
    exact hjob
  · obtain hsame | ⟨w, hnew⟩ := exec_job hx
    · rw [hsame]
      exact hjob
    · rw [hnew]
      rintro k ⟨⟩
      nofun
  · exact microStep_job_hold (s := setRequests (countDown s.host.requests) s) hhold j

/-- DATA keeps its level in every step but a Setup, a Release and ARM at an idle block. -/
theorem step_data {s t : State} (h : step s = .next t) (hsetup : ∀ j ∈ s.block.job, j.phase ≠ .setup)
    (hrelease : ∀ j ∈ s.block.job, j.phase ≠ .release)
    (harm : s.block.busy = true ∨ ∀ c rest, Arrives s c rest → decode s.params.layout c ≠ .ok .arm) :
    t.block.pins.data = s.block.pins.data := by
  obtain hblock | ⟨c, rest, i, hc, hi, hx⟩ | ⟨j, ⟨-, -, hj, -⟩, rfl⟩ := step_block h
  · rw [hblock]
  · obtain hsame | ⟨hidle, rfl⟩ := exec_pins hx
    · rw [hsame, setRequests_pins]
    · obtain hbusy | hno := harm
      · exact absurd (hbusy.symm.trans hidle) nofun
      · exact absurd hi (hno c rest hc)
  · exact microStep_data (hsetup j hj) (hrelease j hj) _

/-- Settles O18: the step is `step_release`; under Hold no step enters it (`step_job_hold`), and DATA is left alone
outside Setup and ARM (`step_data`). -/
theorem releaseDrivesDataLow : Obligations.ReleaseDrivesDataLow := by
  unfold Obligations.ReleaseDrivesDataLow
  refine ⟨fun s j h hj _ => step_release h hj, fun s t h hhold hjob => ⟨step_job_hold h hhold hjob, ?_⟩⟩
  exact fun hsetup harm => step_data h hsetup hjob harm

end Sys2Proof.Machine
end

section
/-! PROOFS. Bursts (42_sequencing.md): a burst of any words runs to its end word by word, a word appends two events for
each of its micro-steps, and the writer never looks at the host's records. -/

namespace Sys2Proof.Machine

/-! The run of a burst. -/

/-- A word with another one pending after it: its events are `wordTrace`, and the next word starts at its Setup
(41_serial_writer.md R73, R74). -/
theorem reaches_nextWord {s : State} {w v : Word} {vs : List Word} (h : Sending s ⟨w, 31, .setup⟩)
    (hp : s.block.pending = v :: vs) :
    Reaches (wordSteps s.params.dataRelease) s
      (setNextWord v vs (afterEvents s (wordTrace s.params.dataRelease w) none)) := by
  have hrun := reaches_latchLowStep h
  rw [latchLowStep_more ((afterEvents_pending _ _ _).trans hp), driveWait_events, afterEvents_append,
    List.append_assoc] at hrun
  exact hrun

/-- The writer keeps sending when a burst goes on to its next word. -/
theorem Sending.next_word {s : State} {j : Job} (h : Sending s j) (v : Word) (vs : List Word) (es : List Event) :
    Sending (setNextWord v vs (afterEvents s es none)) ⟨v, 31, .setup⟩ := by
  obtain ⟨hf, hb, -, hq⟩ := h
  exact ⟨hf, hb, rfl, hq⟩

/-- The end of a burst is the end of its remaining words, after the first one's events. -/
theorem afterBurst_cons (s : State) (w v : Word) (vs : List Word) :
    afterBurst (setNextWord v vs (afterEvents s (wordTrace s.params.dataRelease w) none)) v vs =
      afterBurst s w (v :: vs) := by
  simp [afterBurst, burstTrace, setNextWord, afterEvents, replay_append]

/-- The end of a burst of one word is the end of that word. -/
theorem afterBurst_singleton {s : State} (w : Word) (hp : s.block.pending = []) :
    respond (.ok none) (clearBurst (afterEvents s (wordTrace s.params.dataRelease w) none)) = afterBurst s w [] := by
  simp [afterBurst, burstTrace_singleton, respond, clearBurst, afterEvents, hp]

/-- A burst that is being sent runs to its end, with nothing of it left to send (42_sequencing.md R81). -/
theorem reaches_afterBurst {s : State} {w : Word} {ws : List Word} (h : Sending s ⟨w, 31, .setup⟩)
    (hp : s.block.pending = ws) :
    Reaches ((w :: ws).length * wordSteps s.params.dataRelease) s (afterBurst s w ws) := by
  induction ws generalizing s w with
  | nil =>
    rw [List.length_singleton, Nat.one_mul, ← afterBurst_singleton w hp]
    exact reaches_lastWord h hp
  | cons v vs ih =>
    have hrest := ih (h.next_word v vs (wordTrace s.params.dataRelease w)) rfl
    rw [afterBurst_cons] at hrest
    rw [List.length_cons, Nat.succ_mul, Nat.add_comm]
    exact reaches_trans (reaches_nextWord h hp) hrest

/-! The events of a burst. -/

theorem burstTrace_eq_flatMap (release : DataRelease) (ws : List Word) :
    burstTrace release ws = ws.flatMap (wordTrace release) := by
  induction ws with
  | nil => rfl
  | cons w ws ih => rw [burstTrace, ih, List.flatMap_cons]

/-- A word appends a pin event and a wait for each of its micro-steps (41_serial_writer.md R74). -/
theorem length_wordTrace (release : DataRelease) (w : Word) :
    (wordTrace release w).length = 2 * wordSteps release := by
  have hbit (b : Bool) : (bitTrace release b).length = 2 * bitSteps release := by cases release <;> rfl
  have hbits (n : Nat) : (bitsTrace release w n).length = 2 * (n * bitSteps release) := by
    induction n with
    | zero => rw [Nat.zero_mul]; rfl
    | succ n ih => rw [bitsTrace, List.length_append, hbit, ih]; ring
  rw [wordTrace, List.length_append, hbits, wordSteps_eq]
  rfl

theorem length_flatMap_wordTrace (release : DataRelease) (ws : List Word) :
    (ws.flatMap (wordTrace release)).length = ws.length * (2 * wordSteps release) := by
  simp [List.length_flatMap, length_wordTrace]

/-! An accepted burst. -/

/-- A writer command at a ready block starts the burst of its words, computed there and then (42_sequencing.md R80). -/
theorem exec_writer_ready {i : Instr} {s : State} (h : Ready s) (hi : isWriter i = true) :
    ∃ w ws, burstWords s.params.layout i = w :: ws ∧ exec i s = .next (withBurst s w ws) := by
  obtain ⟨w, ws, hws, hx⟩ := exec_writer hi s
  exact ⟨w, ws, hws, hx.trans (acceptBurst_ready h w ws)⟩

/-- An accepted burst completes with the events of its words in order, and Ok. -/
theorem withBurst_completes {s : State} (h : Ready s) (hq : s.host.requests = []) (w : Word) (ws : List Word) :
    ∃ t, Reaches ((w :: ws).length * wordSteps s.params.dataRelease) (withBurst s w ws) t ∧
      t.block.trace = s.block.trace ++ (w :: ws).flatMap (wordTrace s.params.dataRelease) ∧
      t.block.busy = false ∧ t.host.responses = s.host.responses ++ [.ok none] := by
  refine ⟨_, reaches_afterBurst (sending_setBurst h hq w ws) rfl, ?_, rfl, rfl⟩
  rw [← burstTrace_eq_flatMap]
  rfl

theorem encodes_of_isWriter {i : Instr} (h : isWriter i = true) : encodes i = none := by
  cases i with
  | arm | writeWord | writeAll | writeR4R2 => rfl
  | encR0 | encR1 | encR2 | encR3 | encR4 | encR5 => cases h

/-- A writer command at a live block: the checks in the order of 60_exceptions.md R93, and then the burst of its words
(42_sequencing.md R81, R82). -/
theorem writer_sends_burstWords {i : Instr} {s : State} {w : Word} {ws : List Word} (hlive : Live s)
    (hi : isWriter i = true) (hw : burstWords s.params.layout i = w :: ws) :
    (s.block.busy = true → Overlaps i s) ∧
    (s.block.busy = false → s.block.armed = false → ReturnsNoDevice i s) ∧
    (s.block.busy = false → s.block.armed = true →
      exec i s = .next (withBurst s w ws) ∧
      (s.host.requests = [] →
        ∃ t, Reaches ((w :: ws).length * wordSteps s.params.dataRelease) (withBurst s w ws) t ∧
          t.block.trace = s.block.trace ++ (w :: ws).flatMap (wordTrace s.params.dataRelease) ∧
          t.block.busy = false ∧ t.host.responses = s.host.responses ++ [.ok none])) := by
  refine ⟨fun hb => overlaps_of_busy hlive hb (encodes_of_isWriter hi),
    fun hb ha => exec_writer_unarmed hlive hb ha hi, fun hb ha => ?_⟩
  have hready : Ready s := ⟨hlive, hb, ha⟩
  obtain ⟨v, vs, hv, hx⟩ := exec_writer_ready hready hi
  obtain ⟨rfl, rfl⟩ := List.cons.inj (hv.symm.trans hw)
  exact ⟨hx, fun hq => withBurst_completes hready hq v vs⟩

/-- Settles O32: what every writer command does (`writer_sends_burstWords`), six times the events of one word
(`length_flatMap_wordTrace`), and the example's words by evaluation of the encoder. -/
theorem writeAllSendsSixWords : Obligations.WriteAllSendsSixWords := by
  unfold Obligations.WriteAllSendsSixWords
  intro s r0 r1 r2 r3 r4 r5 hlive i l w ws es
  obtain ⟨hbusy, hunarmed, haccepted⟩ := writer_sends_burstWords (i := i) (w := w) (ws := ws) hlive rfl rfl
  have hlength : es.length = 6 * (2 * wordSteps s.params.dataRelease) := length_flatMap_wordTrace _ (w :: ws)
  refine ⟨rfl, hbusy, hunarmed, haccepted, fun hhold => ?_, fun hlow => ?_, ?_⟩
  · rw [hlength, hhold]; rfl
  · rw [hlength, hlow]; rfl
  · rintro hl rfl rfl rfl rfl rfl rfl
    change burstWords l i = _
    rw [hl]
    decide

/-- Settles O33: as for WRITE_ALL, with the two words of Reg4 and Reg2. -/
theorem writeR4R2SendsTwoWords : Obligations.WriteR4R2SendsTwoWords := by
  unfold Obligations.WriteR4R2SendsTwoWords
  intro s r4 r2 hlive i l w ws es
  obtain ⟨hbusy, hunarmed, haccepted⟩ := writer_sends_burstWords (i := i) (w := w) (ws := ws) hlive rfl rfl
  have hlength : es.length = 2 * (2 * wordSteps s.params.dataRelease) := length_flatMap_wordTrace _ (w :: ws)
  refine ⟨rfl, hbusy, hunarmed, haccepted, fun hhold => ?_, fun hlow => ?_, ?_⟩
  · rw [hlength, hhold]; rfl
  · rw [hlength, hlow]; rfl
  · rintro hl rfl rfl
    change burstWords l i = _
    rw [hl]
    decide

/-! The writer and the host's records (42_sequencing.md R80). -/

/-- A micro-step takes everything it needs from the block, so the host's records may change before it or after it. -/
theorem microStep_setRecords (j : Job) (r : Registers) (s : State) :
    microStep j (setRecords r s) = setRecords r (microStep j s) := by
  obtain ⟨w, b, phase⟩ := j
  cases phase with
  | setup => rfl
  | rise => rfl
  | fall =>
    simp only [microStep, fallStep, setRecords_params]
    split <;> rfl
  | release => rfl
  | latchHigh => rfl
  | latchLow =>
    simp only [microStep, latchLowStep, setRecords_pending]
    split <;> rfl

/-- The writer's step with other records of the host is the same step, with those records after it. -/
theorem step_setRecords {s : State} {j : Job} (h : WriterMoves s j) (r : Registers) :
    step (setRecords r s) = .next (setRecords r (microStep j (setRequests (countDown s.host.requests) s))) := by
  have hmoves : WriterMoves (setRecords r s) j := h
  rw [step_writer hmoves, ← microStep_setRecords]
  rfl

/-- Settles O35: a ready block takes the words from the operands (`exec_writer_ready`), and a later change of the host's
records passes through every step of the writer (`step_setRecords`), so that it never reaches the block. -/
theorem burstWordsAreFixedAtAcceptance : Obligations.BurstWordsAreFixedAtAcceptance := by
  unfold Obligations.BurstWordsAreFixedAtAcceptance
  exact ⟨fun _ _ => exec_writer_ready, fun _ _ r h => ⟨_, _, step_writer h, step_setRecords h r, setRecords_block r _⟩⟩

end Sys2Proof.Machine
end

section
/-! PROOFS. Errors, faults and refusals (60_exceptions.md): what a command makes of the fault set, what a block does that
holds a fault, and the checks on an arriving command in the order of R93. -/

namespace Sys2Proof.Machine

/-! ARM's drives leave these as they were (41_serial_writer.md R65). -/

@[simp] theorem armPins_faults (s : State) : (armPins s).block.faults = s.block.faults := by
  rw [armPins_events]
  rfl

@[simp] theorem armPins_responses (s : State) : (armPins s).host.responses = s.host.responses := by
  rw [armPins_events]
  rfl

@[simp] theorem armPins_refused (s : State) : (armPins s).refused = s.refused := by
  rw [armPins_events]
  rfl

/-! The fault set (60_exceptions.md R90). -/

/-- Overlap is the only fault there is (60_exceptions.md R90). -/
theorem fault_eq_overlap (f : Fault) : f = .overlap := by
  cases f
  rfl

theorem raiseFault_faults {s : State} (h : s.block.faults = []) (f : Fault) :
    (raiseFault f s).block.faults = [f] := by
  simp [raiseFault, h]

/-- A command leaves the fault set as it was, unless it overlaps with a running burst. -/
theorem exec_faults {i : Instr} {s t : State} (h : exec i s = .next t) :
    t.block.faults = s.block.faults ∨
      (t.block.faults = [.overlap] ∧ s.block.busy = true ∧ encodes i = none) := by
  obtain ⟨hf, rfl | ⟨hb, rfl, hi⟩ | ⟨-, -, rfl, -⟩ | ⟨-, -, -, w, ws, -, rfl⟩ | ⟨-, -, rfl⟩ | ⟨k, r, -, rfl⟩⟩ :=
    exec_next h
  · exact .inl rfl
  · exact .inr ⟨raiseFault_faults hf .overlap, hb, hi⟩
  · exact .inl rfl
  · exact .inl rfl
  · exact .inl (armPins_faults s)
  · exact .inl rfl

/-- A run from a block that holds a fault has no step (60_exceptions.md R90). -/
theorem reaches_faulted {n : Nat} {t u : State} (h : t.block.faults ≠ []) (hr : Reaches n t u) : u = t := by
  cases n with
  | zero =>
    cases hr
    rfl
  | succ n =>
    obtain ⟨f, fs, hf⟩ := List.exists_cons_of_ne_nil h
    obtain ⟨x, hx, -⟩ := reaches_succ_inv hr
    rw [step_faulted hf] at hx
    cases hx

/-- Settles O39: a command adds Overlap only (`exec_faults`), and a block that holds a fault answers it to every step
and every command (`step_faulted`, `exec_faulted`), so that a run from it stays where it is (`reaches_faulted`). -/
theorem faultsAreSticky : Obligations.FaultsAreSticky := by
  unfold Obligations.FaultsAreSticky
  refine ⟨fun _ f _ => fault_eq_overlap f, fun s t i => exec_faults, fun n s t u f _ hmem hr => ?_, fun s i hne => ?_,
    fun _ => rfl⟩
  · rw [reaches_faulted (List.ne_nil_of_mem hmem) hr]
    exact hmem
  · obtain ⟨f, fs, hf⟩ := List.exists_cons_of_ne_nil hne
    obtain rfl := fault_eq_overlap f
    exact ⟨fun hfin => hne hfin.1, step_faulted hf, exec_faulted hf i⟩

/-! The checks on an arriving command, in order (60_exceptions.md R93). -/

/-- The next step runs the command that arrives. -/
theorem step_arrives {s : State} {c : HostCommand} {rest : List Request} (h : Arrives s c rest) :
    step s = runCommand c (setRequests rest s) := by
  obtain ⟨hf, a, hq, hd⟩ := h
  exact step_due hf hq hd

/-- A command that neither overlaps nor lacks ARM is accepted: no fault, no refusal and no error. -/
theorem exec_accepted {i : Instr} {s : State} (h : Live s) (hb : ¬ (encodes i = none ∧ s.block.busy = true))
    (ha : ¬ (isWriter i = true ∧ s.block.armed = false)) :
    ∃ t, exec i s = .next t ∧ t.block.faults = [] ∧ t.refused = s.refused ∧
      ∀ e, t.host.responses ≠ s.host.responses ++ [.error e] := by
  have hidle (hi : encodes i = none) : s.block.busy = false := Bool.eq_false_iff.2 fun hbusy => hb ⟨hi, hbusy⟩
  obtain rfl | hw | ⟨k, r, he⟩ := instr_kinds i
  · refine ⟨_, execArm_idle h (hidle rfl), (armPins_faults s).trans h.1, armPins_refused s, fun e hr => ?_⟩
    rw [respond_responses, setArmed_responses, armPins_responses] at hr
    cases List.append_cancel_left hr
  · have harmed : s.block.armed = true := Bool.ne_false_iff.1 fun hno => ha ⟨hw, hno⟩
    obtain ⟨w, ws, -, hx⟩ := exec_writer_ready ⟨h, hidle (encodes_of_isWriter hw), harmed⟩ hw
    exact ⟨_, hx, h.1, rfl, fun e hr => List.cons_ne_nil _ _ (List.self_eq_append_right.1 hr)⟩
  · refine ⟨_, exec_encodes_returns h he, h.1, rfl, fun e hr => ?_⟩
    cases List.append_cancel_left hr

/-- A micro-step raises no fault and returns nothing but Ok. -/
theorem microStep_raises_nothing (j : Job) (s : State) :
    (microStep j s).block.faults = s.block.faults ∧
      ((microStep j s).host.responses = s.host.responses ∨
        (microStep j s).host.responses = s.host.responses ++ [.ok none]) := by
  by_cases hj : j.phase = .latchLow
  · rw [microStep_latchLow hj]
    cases hp : s.block.pending with
    | nil => rw [latchLowStep_last hp]; exact ⟨rfl, .inr rfl⟩
    | cons w rest => rw [latchLowStep_more hp]; exact ⟨rfl, .inl rfl⟩
  · obtain ⟨p, v, k, he, -⟩ := microStep_events hj s
    rw [he]
    exact ⟨rfl, .inl rfl⟩

/-- Settles O41: the decoder, then `exec_busy`, then `exec_writer_unarmed`, then acceptance (`exec_accepted`), after
which the writer's steps raise nothing (`microStep_raises_nothing`). -/
theorem checksAreMadeInOrder : Obligations.ChecksAreMadeInOrder := by
  unfold Obligations.ChecksAreMadeInOrder
  refine ⟨fun s c rest hc hl => ?_, fun s j h => ?_⟩
  · have hlive : Live (setRequests rest s) := ⟨hc.1, hl⟩
    rw [step_arrives hc, runCommand, setRequests_params]
    cases decode s.params.layout c with
    | error e => exact ⟨_, rfl, rfl⟩
    | ok i =>
      by_cases hb : encodes i = none ∧ s.block.busy = true
      · exact ⟨_, exec_busy hlive hb.2 hb.1, (if_pos hb).mpr rfl⟩
      by_cases ha : isWriter i = true ∧ s.block.armed = false
      · have hidle : s.block.busy = false := Bool.eq_false_iff.2 fun hbusy => hb ⟨encodes_of_isWriter ha.1, hbusy⟩
        exact ⟨_, exec_writer_unarmed hlive hidle ha.2 ha.1, ((if_neg hb).trans (if_pos ha)).mpr rfl⟩
      · obtain ⟨t, hx, haccepted⟩ := exec_accepted hlive hb ha
        exact ⟨t, hx, ((if_neg hb).trans (if_neg ha)).mpr ⟨hx, haccepted⟩⟩
  · obtain ⟨hfaults, hresponses⟩ := microStep_raises_nothing j (setRequests (countDown s.host.requests) s)
    exact ⟨_, step_writer h, hfaults.trans h.1, hresponses⟩

/-! NoDevice and Overlap, command by command (60_exceptions.md R87, R89). -/

/-- Only a writer command returns NoDevice (60_exceptions.md R87). -/
theorem isWriter_of_noDevice {i : Instr} {s t : State} (h : exec i s = .next t)
    (hr : t.host.responses = s.host.responses ++ [.error .noDevice]) : isWriter i = true := by
  obtain ⟨-, rfl | ⟨-, rfl, -⟩ | ⟨-, -, -, hw⟩ | ⟨-, -, hw, -⟩ | ⟨-, -, rfl⟩ | ⟨k, r, -, rfl⟩⟩ := exec_next h
  · cases List.append_cancel_left hr
  · cases List.append_cancel_left hr
  · exact hw
  · exact hw
  · rw [respond_responses, setArmed_responses, armPins_responses] at hr
    cases List.append_cancel_left hr
  · cases List.append_cancel_left hr

/-- Settles O37: `exec_writer_unarmed`, and no other kind of command returns NoDevice (`isWriter_of_noDevice`). -/
theorem unarmedWriterGetsNoDevice : Obligations.UnarmedWriterGetsNoDevice := by
  unfold Obligations.UnarmedWriterGetsNoDevice
  refine ⟨fun s i hl hb ha hi => exec_writer_unarmed hl hb ha hi, fun s t i hi h hr => ?_⟩
  rw [isWriter_of_noDevice h hr] at hi
  cases hi

/-- Settles O38: `overlaps_of_busy`, while an encode command answers as ever (`exec_encodes_returns`). -/
theorem busyBlockOverlaps : Obligations.BusyBlockOverlaps := by
  unfold Obligations.BusyBlockOverlaps
  refine fun s i hl hb => ⟨overlaps_of_busy hl hb, fun hi => ?_⟩
  obtain ⟨⟨k, r⟩, he⟩ := Option.ne_none_iff_exists'.1 hi
  exact ⟨_, exec_encodes_returns hl he⟩

end Sys2Proof.Machine
end

section
/-! PROOFS. One step as a whole: what it leaves to the host alone, and the events it appends, which decide the pins, the
receiver and the trace together (20_memory.md section 3, 41_serial_writer.md section 3). -/

namespace Sys2Proof.Machine

/-! What the host does on its own side. -/

/-- Only the host's side and the refusal mark may differ. -/
structure HostOnly (s t : State) : Prop where
  params : t.params = s.params
  block : t.block = s.block
  rx : t.rx = s.rx

theorem HostOnly.refl (s : State) : HostOnly s s := ⟨rfl, rfl, rfl⟩

theorem HostOnly.trans {s t u : State} (h : HostOnly s t) (hu : HostOnly t u) : HostOnly s u :=
  ⟨hu.params.trans h.params, hu.block.trans h.block, hu.rx.trans h.rx⟩

theorem refuse_hostOnly (r : Refusal) (s : State) : HostOnly s (refuse r s) := ⟨rfl, rfl, rfl⟩

theorem setRequests_hostOnly (rs : List Request) (s : State) : HostOnly s (setRequests rs s) := ⟨rfl, rfl, rfl⟩

theorem issueProgram_hostOnly (cs : List HostCommand) (s : State) : HostOnly s (issueProgram cs s) := by
  cases cs <;> exact ⟨rfl, rfl, rfl⟩

/-- A program text reaches neither the block nor the receiver (30_encoding.md R53). -/
theorem runText_hostOnly (source : List Char) (s : State) : HostOnly s (runText source s) := by
  unfold runText
  split
  · exact issueProgram_hostOnly _ s
  · exact refuse_hostOnly _ s

theorem writeIfPowered_hostOnly (s : State) : HostOnly s (writeIfPowered s) := by
  unfold writeIfPowered
  split <;> exact ⟨rfl, rfl, rfl⟩

theorem ifHostArmed_hostOnly {s t : State} (h : HostOnly s t) : HostOnly s (ifHostArmed s t) := by
  unfold ifHostArmed
  split
  · exact h
  · exact ⟨rfl, rfl, rfl⟩

/-- A pseudo-command reaches neither the block nor the receiver (42_sequencing.md R84). -/
theorem runPseudo_hostOnly (p : PseudoCommand) (s : State) : HostOnly s (runPseudo p s) := by
  have hrecords (r : Registers) : HostOnly s (writeIfPowered (setRecords r s)) :=
    HostOnly.trans (t := setRecords r s) ⟨rfl, rfl, rfl⟩ (writeIfPowered_hostOnly _)
  cases p with
  | setup => exact ⟨rfl, rfl, rfl⟩
  | setFrequency outcome =>
    refine ifHostArmed_hostOnly ?_
    cases outcome with
    | planned r => exact hrecords r
    | failed e => exact ⟨rfl, rfl, rfl⟩
  | setOutputEnable on => exact ifHostArmed_hostOnly ⟨rfl, rfl, rfl⟩
  | setMode up => exact ifHostArmed_hostOnly ⟨rfl, rfl, rfl⟩
  | setTuning cp op low => exact ifHostArmed_hostOnly (hrecords _)

/-- What a step can do to the block and the receiver: nothing, what an arriving command does, or a micro-step. -/
theorem step_hostOnly_or {s t : State} (h : step s = .next t) :
    HostOnly s t ∨
      (∃ c rest i, Arrives s c rest ∧ decode s.params.layout c = .ok i ∧ exec i (setRequests rest s) = .next t) ∨
      (∃ j, WriterMoves s j ∧ t = microStep j (setRequests (countDown s.host.requests) s)) := by
  obtain ⟨hf, ⟨a, c, rest, hq, hd, ⟨e, -, rfl⟩ | ⟨i, hi, hx⟩⟩ | ⟨a, src, rest, -, rfl⟩ | ⟨a, p, rest, -, rfl⟩ |
    hj | rfl⟩ := step_next h
  · exact .inl ((setRequests_hostOnly rest s).trans (refuse_hostOnly _ _))
  · exact .inr (.inl ⟨c, rest, i, ⟨hf, a, hq, hd⟩, hi, hx⟩)
  · exact .inl ((setRequests_hostOnly rest s).trans (runText_hostOnly _ _))
  · exact .inl ((setRequests_hostOnly rest s).trans (runPseudo_hostOnly _ _))
  · exact .inr (.inr hj)
  · exact .inl (HostOnly.refl _)

/-! The events a step appends. -/

/-- The events `es` are all that happens on the pins between `s` and `t`, and the receiver has seen just them. -/
structure Appends (s t : State) (es : List Event) : Prop where
  params : t.params = s.params
  trace : t.block.trace = s.block.trace ++ es
  replayed : replay s.params.rxCommitEdge es (s.block.pins, s.rx) = (t.block.pins, t.rx)

/-- The pins are what the appended events make of them. -/
theorem Appends.pins {s t : State} {es : List Event} (h : Appends s t es) :
    t.block.pins = pinsAfter es s.block.pins := by
  rw [← replay_fst s.params.rxCommitEdge es s.block.pins s.rx, h.replayed]

theorem HostOnly.appends_nil {s t : State} (h : HostOnly s t) : Appends s t [] :=
  ⟨h.params, by rw [h.block, List.append_nil], by rw [h.block, h.rx]; rfl⟩

/-- What the host does first makes no difference to the events. -/
theorem Appends.of_hostOnly {s t u : State} {es : List Event} (h : HostOnly s t) (hu : Appends t u es) :
    Appends s u es :=
  ⟨hu.params.trans h.params, by rw [hu.trace, h.block], by rw [← hu.replayed, h.params, h.block, h.rx]⟩

/-- The pin a micro-step drives, and the level, by the job's phase (41_serial_writer.md R67 to R73). -/
def microDrive (j : Job) : Pin × Level :=
  match j.phase with
  | .setup => (.data, bitLevel (j.word.getLsbD j.bit.val))
  | .rise => (.clk, .high)
  | .fall => (.clk, .low)
  | .release => (.data, .low)
  | .latchHigh => (.le, .high)
  | .latchLow => (.le, .low)

/-- The two events of a micro-step. -/
def microTrace (j : Job) : List Event :=
  [.pin (microDrive j).1 (microDrive j).2, .wait]

/-- A micro-step appends its drive and its wait, whatever state it is taken in. -/
theorem microStep_appends (j : Job) (s : State) : Appends s (microStep j s) (microTrace j) := by
  obtain ⟨w, b, phase⟩ := j
  have htrace (e : Event) : s.block.trace ++ [e] ++ [Event.wait] = s.block.trace ++ [e, .wait] :=
    List.append_assoc _ _ _
  cases phase with
  | setup => exact ⟨rfl, htrace _, rfl⟩
  | rise => exact ⟨rfl, htrace _, rfl⟩
  | fall =>
    simp only [microStep, fallStep]
    split <;> exact ⟨rfl, htrace _, rfl⟩
  | release => exact ⟨rfl, htrace _, rfl⟩
  | latchHigh => exact ⟨rfl, htrace _, rfl⟩
  | latchLow =>
    simp only [microStep, latchLowStep]
    split <;> exact ⟨rfl, htrace _, rfl⟩

/-- A command appends nothing, unless it is ARM at an idle block. -/
theorem exec_appends {i : Instr} {s t : State} (h : exec i s = .next t) :
    Appends s t [] ∨ (i = .arm ∧ Appends s t (armTrace s.params.csActive)) := by
  have hnil : s.block.trace = s.block.trace ++ [] := (List.append_nil _).symm
  obtain ⟨-, rfl | ⟨-, rfl, -⟩ | ⟨-, -, rfl, -⟩ | ⟨-, -, -, w, ws, -, rfl⟩ | ⟨-, rfl, rfl⟩ | ⟨k, r, -, rfl⟩⟩ :=
    exec_next h
  · exact .inl ⟨rfl, hnil, rfl⟩
  · exact .inl ⟨rfl, hnil, rfl⟩
  · exact .inl ⟨rfl, hnil, rfl⟩
  · exact .inl ⟨rfl, hnil, rfl⟩
  · rw [armPins_events]
    exact .inr ⟨rfl, rfl, rfl, rfl⟩
  · exact .inl ⟨rfl, hnil, rfl⟩

/-- What a step appends: nothing, the drives of an arriving ARM, or the drive of a micro-step. -/
theorem step_appends {s t : State} (h : step s = .next t) :
    Appends s t [] ∨
      ((∃ c rest, Arrives s c rest ∧ decode s.params.layout c = .ok .arm) ∧
        Appends s t (armTrace s.params.csActive)) ∨
      ∃ j, WriterMoves s j ∧ Appends s t (microTrace j) := by
  obtain hhost | ⟨c, rest, i, hc, hi, hx⟩ | ⟨j, hj, rfl⟩ := step_hostOnly_or h
  · exact .inl hhost.appends_nil
  · obtain hnil | ⟨rfl, harm⟩ := exec_appends hx
    · exact .inl (hnil.of_hostOnly (setRequests_hostOnly rest s))
    · exact .inr (.inl ⟨⟨c, rest, hc, hi⟩, harm.of_hostOnly (setRequests_hostOnly rest s)⟩)
  · exact .inr (.inr ⟨j, hj, (microStep_appends j _).of_hostOnly (setRequests_hostOnly _ s)⟩)

/-- Settles O47: whatever a step or a command appends, it leaves the parameters (`step_appends`, `exec_appends`). -/
theorem parametersNeverChange : Obligations.ParametersNeverChange := by
  unfold Obligations.ParametersNeverChange
  refine ⟨fun s t h => ?_, fun i s t h => ?_⟩
  · obtain hnil | ⟨-, harm⟩ | ⟨j, -, hj⟩ := step_appends h
    · exact hnil.params
    · exact harm.params
    · exact hj.params
  · obtain hnil | ⟨-, harm⟩ := exec_appends h
    · exact hnil.params
    · exact harm.params

/-- Settles O48: each kind of appended events (`step_appends`) has a wait after every drive. -/
theorem traceOnlyGrows : Obligations.TraceOnlyGrows := by
  unfold Obligations.TraceOnlyGrows
  intro s t h
  obtain hnil | ⟨-, harm⟩ | ⟨j, -, hj⟩ := step_appends h
  · exact ⟨[], hnil.trace, rfl⟩
  · exact ⟨_, harm.trace, rfl⟩
  · exact ⟨_, hj.trace, rfl⟩

/-! Who drives a pin (41_serial_writer.md section 3). -/

/-- A trace that never drives a pin leaves its level. -/
theorem pinLevel_pinsAfter_of_undriven {p : Pin} {es : List Event} (h : ∀ v, Event.pin p v ∉ es) (ps : Pins) :
    pinLevel (pinsAfter es ps) p = pinLevel ps p := by
  induction es generalizing ps with
  | nil => rfl
  | cons e es ih =>
    have hes : ∀ v, Event.pin p v ∉ es := fun v hv => h v (List.mem_cons_of_mem e hv)
    cases e with
    | wait => exact ih hes ps
    | pin q u =>
      have hq : q ≠ p := by
        rintro rfl
        exact h u List.mem_cons_self
      rw [pinsAfter, ih hes, pinLevel_setPin, if_neg hq]

/-- A pin whose level changed has been driven. -/
theorem Appends.driven {s t : State} {es : List Event} (h : Appends s t es) {p : Pin}
    (hp : (∃ v, Event.pin p v ∈ es) ∨ pinLevel t.block.pins p ≠ pinLevel s.block.pins p) :
    ∃ v, Event.pin p v ∈ es := by
  refine hp.elim id fun hlevel => ?_
  by_contra hno
  rw [h.pins, pinLevel_pinsAfter_of_undriven (not_exists.1 hno)] at hlevel
  exact hlevel rfl

theorem mem_microTrace_iff (j : Job) (p : Pin) (v : Level) : Event.pin p v ∈ microTrace j ↔ (p, v) = microDrive j := by
  simp [microTrace, Prod.ext_iff]

/-- No micro-step drives CS. -/
theorem microDrive_ne_cs (j : Job) : (microDrive j).1 ≠ .cs := by
  unfold microDrive
  split <;> nofun

/-- A micro-step that drives DATA is a Setup or a Release. -/
theorem phase_of_microDrive_data {j : Job} (h : (microDrive j).1 = .data) : j.phase = .setup ∨ j.phase = .release := by
  obtain ⟨w, b, phase⟩ := j
  cases phase with
  | setup => exact .inl rfl
  | release => exact .inr rfl
  | rise | fall | latchHigh | latchLow => cases h

/-- Settles O49: a pin that changed has been driven (`Appends.driven`), and of the events a step can append
(`step_appends`) only ARM's drive CS, and only ARM's, a Setup's and a Release's drive DATA. -/
theorem whoDrivesCsAndData : Obligations.WhoDrivesCsAndData := by
  unfold Obligations.WhoDrivesCsAndData
  intro s t h
  obtain hnil | ⟨hc, harm⟩ | ⟨j, hj, hm⟩ := step_appends h
  · refine ⟨[], hnil.trace, fun hp => ?_, fun hp => ?_⟩
    · obtain ⟨v, ⟨⟩⟩ := hnil.driven (p := .cs) hp
    · obtain ⟨v, ⟨⟩⟩ := hnil.driven (p := .data) hp
  · exact ⟨_, harm.trace, fun _ => hc, fun _ => .inl hc⟩
  · refine ⟨_, hm.trace, fun hp => ?_, fun hp => .inr ⟨j, hj, ?_⟩⟩
    · obtain ⟨v, hv⟩ := hm.driven (p := .cs) hp
      rw [mem_microTrace_iff] at hv
      exact absurd (congrArg Prod.fst hv).symm (microDrive_ne_cs j)
    · obtain ⟨v, hv⟩ := hm.driven (p := .data) hp
      rw [mem_microTrace_iff] at hv
      exact phase_of_microDrive_data (congrArg Prod.fst hv).symm

end Sys2Proof.Machine
end

section
/-! PROOFS. The invariant of every reachable state: `busy` and the job, the pins by the phase, and the trace, with each
part kept by every step (10_state.md section 2, 41_serial_writer.md section 3, 70_reset_and_hazards.md section 2). -/

namespace Sys2Proof.Machine

/-! `busy`, the job and the pending words (10_state.md R18 to R20). -/

theorem HostOnly.busyInv {s t : State} (h : HostOnly s t) (hs : BusyInv s) : BusyInv t := by
  rw [BusyInv, h.block]
  exact hs

/-- An idle block has no job (10_state.md R18). -/
theorem BusyInv.job_eq_none {s : State} (h : BusyInv s) (hb : s.block.busy = false) : s.block.job = none := by
  obtain ⟨hjob, -, -⟩ := h
  by_contra hne
  exact absurd (hb.symm.trans (hjob.2 hne)) nofun

theorem exec_busyInv {i : Instr} {s t : State} (hs : BusyInv s) (h : exec i s = .next t) : BusyInv t := by
  obtain ⟨hjob, harmed, hpending⟩ := hs
  obtain ⟨-, rfl | ⟨-, rfl, -⟩ | ⟨-, -, rfl, -⟩ | ⟨-, ha, -, w, ws, -, rfl⟩ | ⟨-, -, rfl⟩ | ⟨k, r, -, rfl⟩⟩ :=
    exec_next h
  · exact ⟨hjob, harmed, hpending⟩
  · exact ⟨hjob, harmed, hpending⟩
  · exact ⟨hjob, harmed, hpending⟩
  · exact ⟨⟨nofun, fun _ => rfl⟩, fun _ => ha, nofun⟩
  · rw [armPins_events]
    exact ⟨hjob, fun _ => rfl, hpending⟩
  · exact ⟨hjob, harmed, hpending⟩

/-- A micro-step keeps the word and the pending words, goes on to the burst's next word, or ends the burst. -/
theorem microStep_burst (j : Job) (s : State) :
    (∃ k, (microStep j s).block.job = some k ∧ k.word = j.word ∧
        (microStep j s).block.pending = s.block.pending ∧ (microStep j s).block.busy = s.block.busy) ∨
      (j.phase = .latchLow ∧ ∃ w rest, s.block.pending = w :: rest ∧
        (microStep j s).block.job = some ⟨w, 31, .setup⟩ ∧ (microStep j s).block.pending = rest ∧
        (microStep j s).block.busy = s.block.busy) ∨
      (j.phase = .latchLow ∧ s.block.pending = [] ∧ (microStep j s).block.job = none ∧
        (microStep j s).block.pending = [] ∧ (microStep j s).block.busy = false) := by
  by_cases hj : j.phase = .latchLow
  · rw [microStep_latchLow hj]
    cases hp : s.block.pending with
    | nil => rw [latchLowStep_last hp]; exact .inr (.inr ⟨hj, rfl, rfl, hp, rfl⟩)
    | cons w rest => rw [latchLowStep_more hp]; exact .inr (.inl ⟨hj, w, rest, rfl, rfl, rfl, rfl⟩)
  · obtain ⟨p, v, k, he, hw⟩ := microStep_events hj s
    rw [he]
    exact .inl ⟨k, rfl, hw, rfl, rfl⟩

theorem microStep_busyInv {s : State} {j : Job} (hb : s.block.busy = true) (ha : s.block.armed = true) :
    BusyInv (microStep j s) := by
  rw [BusyInv, microStep_armed]
  obtain ⟨k, hk, -, -, hbusy⟩ | ⟨-, w, rest, -, hk, -, hbusy⟩ | ⟨-, -, hk, hp, hbusy⟩ := microStep_burst j s
  · rw [hk, hbusy]
    exact ⟨⟨nofun, fun _ => hb⟩, fun _ => ha, nofun⟩
  · rw [hk, hbusy]
    exact ⟨⟨nofun, fun _ => hb⟩, fun _ => ha, nofun⟩
  · rw [hk, hbusy]
    exact ⟨⟨nofun, fun h => absurd rfl h⟩, nofun, fun _ => hp⟩

/-- Every step keeps the invariants of `busy` (10_state.md R18). -/
theorem step_busyInv {s t : State} (hs : BusyInv s) (h : step s = .next t) : BusyInv t := by
  obtain hhost | ⟨c, rest, i, -, -, hx⟩ | ⟨j, ⟨-, hb, -, -⟩, rfl⟩ := step_hostOnly_or h
  · exact hhost.busyInv hs
  · exact exec_busyInv ((setRequests_hostOnly rest s).busyInv hs) hx
  · exact microStep_busyInv hb (hs.2.1 hb)

/-- A command leaves `busy`, the job and the pending words alone, unless it is a writer command that an armed, idle
block accepts. -/
theorem exec_burst {i : Instr} {s t : State} (h : exec i s = .next t) :
    (t.block.busy = s.block.busy ∧ t.block.job = s.block.job ∧ t.block.pending = s.block.pending) ∨
      (s.block.busy = false ∧ s.block.armed = true ∧ isWriter i = true) := by
  obtain ⟨-, rfl | ⟨-, rfl, -⟩ | ⟨-, -, rfl, -⟩ | ⟨hb, ha, hi, -⟩ | ⟨-, -, rfl⟩ | ⟨k, r, -, rfl⟩⟩ := exec_next h
  · exact .inl ⟨rfl, rfl, rfl⟩
  · exact .inl ⟨rfl, rfl, rfl⟩
  · exact .inl ⟨rfl, rfl, rfl⟩
  · exact .inr ⟨hb, ha, hi⟩
  · rw [armPins_events]
    exact .inl ⟨rfl, rfl, rfl⟩
  · exact .inl ⟨rfl, rfl, rfl⟩

/-- Settles O45: `busy` changes by an accepted writer command (`exec_burst`) and by the LatchLow that finds no word
pending (`microStep_burst`), and its invariants are kept (`step_busyInv`). -/
theorem busySpansTheBurst : Obligations.BusySpansTheBurst := by
  unfold Obligations.BusySpansTheBurst
  refine ⟨fun s t h hs ht => ?_, fun s t h hs ht => ?_, fun s t => step_busyInv⟩
  · obtain hhost | ⟨c, rest, i, hc, hi, hx⟩ | ⟨j, ⟨-, hb, -, -⟩, -⟩ := step_hostOnly_or h
    · rw [hhost.block, hs] at ht
      cases ht
    · obtain ⟨hbusy, -, -⟩ | ⟨-, ha, hw⟩ := exec_burst hx
      · exact absurd ((hbusy.trans hs).symm.trans ht) nofun
      · exact ⟨c, rest, i, hc, hi, hw, ha⟩
    · exact absurd (hb.symm.trans hs) nofun
  · obtain hhost | ⟨c, rest, i, -, -, hx⟩ | ⟨j, ⟨-, -, hj, -⟩, rfl⟩ := step_hostOnly_or h
    · rw [hhost.block, hs] at ht
      cases ht
    · obtain ⟨hbusy, -, -⟩ | ⟨hidle, -, -⟩ := exec_burst hx
      · exact absurd ((hbusy.trans hs).symm.trans ht) nofun
      · exact absurd (hs.symm.trans hidle) nofun
    · obtain ⟨k, -, -, -, hbusy⟩ | ⟨-, w, rest, -, -, -, hbusy⟩ | ⟨hlast, hp, -⟩ :=
        microStep_burst j (setRequests (countDown s.host.requests) s)
      · exact absurd ((hbusy.trans hs).symm.trans ht) nofun
      · exact absurd ((hbusy.trans hs).symm.trans ht) nofun
      · exact ⟨j, hj, hlast, hp⟩

/-- Settles O46: a command cannot touch the job of a busy block (`exec_burst`), and a micro-step keeps its word or takes
the next pending one (`microStep_burst`). -/
theorem jobWordIsNeverChanged : Obligations.JobWordIsNeverChanged := by
  unfold Obligations.JobWordIsNeverChanged
  intro s t j k hs h hj hk
  have hsame (hjob : t.block.job = s.block.job) : k = j := Option.some.inj (hk.symm.trans (hjob.trans hj))
  obtain hhost | ⟨c, rest, i, -, -, hx⟩ | ⟨j', ⟨-, -, hj', -⟩, rfl⟩ := step_hostOnly_or h
  · exact .inl ⟨by rw [hsame (by rw [hhost.block])], by rw [hhost.block]⟩
  · obtain ⟨-, hjob, hp⟩ | ⟨hidle, -, -⟩ := exec_burst hx
    · exact .inl ⟨by rw [hsame hjob], hp⟩
    · rw [setRequests_busy] at hidle
      rw [hs.job_eq_none hidle] at hj
      cases hj
  · obtain rfl := Option.some.inj (hj.symm.trans hj')
    obtain ⟨k', hk', hw, hp, -⟩ | ⟨hlast, w, rest, hp, hk', hrest, -⟩ | ⟨-, -, hnone, -⟩ := microStep_burst j _
    · obtain rfl := Option.some.inj (hk.symm.trans hk')
      exact .inl ⟨hw, hp⟩
    · obtain rfl := Option.some.inj (hk.symm.trans hk')
      rw [hrest]
      exact .inr ⟨hlast, hp, rfl, rfl⟩
    · rw [hnone] at hk
      cases hk

/-! The pins, by the job's phase (41_serial_writer.md R75). -/

/-- A bit starts with CLK and LE Low, whatever DATA is. -/
theorem jobPins_setup {release : DataRelease} {ps : Pins} (hclk : ps.clk = some .low) (hle : ps.le = some .low)
    (w : Word) (b : Fin 32) : JobPins release ps ⟨w, b, .setup⟩ :=
  ⟨hclk, hle, nofun, nofun, nofun⟩

/-- NextBit's job starts with CLK and LE Low: a Setup, or after bit 0 the latch pulse. -/
theorem jobPins_nextBit {release : DataRelease} {ps : Pins} (hclk : ps.clk = some .low) (hle : ps.le = some .low)
    (j : Job) : JobPins release ps (nextBit j) := by
  obtain hbit | hbit := Nat.eq_zero_or_pos j.bit.val
  · rw [nextBit_last hbit]
    exact ⟨hclk, hle, nofun, fun _ => Fin.ext hbit, nofun⟩
  · rw [nextBit_lower hbit]
    exact jobPins_setup hclk hle _ _

/-- What the pins must be for what the job is, or CLK and LE Low without a job. -/
def PinsFit (release : DataRelease) (ps : Pins) (job : Option Job) : Prop :=
  (job = none → ps.clk = some .low ∧ ps.le = some .low) ∧ ∀ j ∈ job, JobPins release ps j

theorem pinsFit_some {release : DataRelease} {ps : Pins} {j : Job} (h : JobPins release ps j) :
    PinsFit release ps (some j) :=
  ⟨nofun, fun _ hk => Option.some.inj hk ▸ h⟩

theorem pinsFit_none {release : DataRelease} {ps : Pins} (hclk : ps.clk = some .low) (hle : ps.le = some .low) :
    PinsFit release ps none :=
  ⟨fun _ => ⟨hclk, hle⟩, nofun⟩

/-- The pin invariant, with the two parts that speak of the job under one name. -/
theorem pinInv_iff (s : State) :
    PinInv s ↔ (s.block.armed = true → s.block.pins.cs = some s.params.csActive ∧ s.block.pins.data ≠ none ∧
      PinsFit s.params.dataRelease s.block.pins s.block.job) :=
  Iff.rfl

/-- Every micro-step leaves the pins as the next phase wants them (41_serial_writer.md R67 to R73). -/
theorem microStep_pinsFit {s : State} {j : Job} (h : JobPins s.params.dataRelease s.block.pins j) :
    PinsFit s.params.dataRelease (microStep j s).block.pins (microStep j s).block.job := by
  obtain ⟨hclk, hle, hdata, hbit, -⟩ := h
  cases hj : j.phase with
  | setup =>
    rw [hj] at hclk hle
    rw [microStep_setup hj]
    exact pinsFit_some ⟨hclk, hle, fun _ => rfl, nofun, nofun⟩
  | rise =>
    rw [hj] at hle
    rw [microStep_rise hj]
    exact pinsFit_some ⟨rfl, hle, fun _ => hdata (.inl hj), nofun, nofun⟩
  | fall =>
    rw [hj] at hle
    rw [microStep_fall hj]
    cases hr : s.params.dataRelease with
    | hold =>
      rw [fallStep_hold hr]
      exact pinsFit_some (jobPins_nextBit (by exact rfl) (by exact hle) j)
    | driveLow =>
      rw [fallStep_driveLow hr]
      exact pinsFit_some ⟨rfl, hle, nofun, nofun, fun _ => rfl⟩
  | release =>
    rw [hj] at hclk hle
    rw [microStep_release hj]
    exact pinsFit_some (jobPins_nextBit (by exact hclk) (by exact hle) j)
  | latchHigh =>
    rw [hj] at hclk
    rw [microStep_latchHigh hj]
    exact pinsFit_some ⟨hclk, rfl, nofun, fun _ => hbit (.inl hj), nofun⟩
  | latchLow =>
    rw [hj] at hclk
    rw [microStep_latchLow hj]
    cases hp : s.block.pending with
    | nil =>
      rw [latchLowStep_last hp]
      exact pinsFit_none hclk rfl
    | cons w rest =>
      rw [latchLowStep_more hp]
      exact pinsFit_some (jobPins_setup (by exact hclk) (by exact rfl) w 31)

/-- A micro-step leaves CS alone, and DATA driven. -/
theorem microStep_cs_data (j : Job) (s : State) (hdata : s.block.pins.data ≠ none) :
    (microStep j s).block.pins.cs = s.block.pins.cs ∧ (microStep j s).block.pins.data ≠ none := by
  have hpins : (microStep j s).block.pins = setPin s.block.pins (microDrive j).2 (microDrive j).1 :=
    (microStep_appends j s).pins
  have hcs := microDrive_ne_cs j
  rw [hpins]
  cases hp : (microDrive j).1 with
  | cs => exact absurd hp hcs
  | data => exact ⟨rfl, Option.some_ne_none _⟩
  | le | clk => exact ⟨rfl, hdata⟩

theorem HostOnly.pinInv {s t : State} (h : HostOnly s t) (hs : PinInv s) : PinInv t := by
  rw [PinInv, h.block, h.params]
  exact hs

theorem exec_pinInv {i : Instr} {s t : State} (hbusy : BusyInv s) (hs : PinInv s) (h : exec i s = .next t) :
    PinInv t := by
  obtain ⟨-, rfl | ⟨-, rfl, -⟩ | ⟨-, -, rfl, -⟩ | ⟨hb, -, -, w, ws, -, rfl⟩ | ⟨hb, -, rfl⟩ | ⟨k, r, -, rfl⟩⟩ :=
    exec_next h
  · exact hs
  · exact hs
  · exact hs
  · intro ha
    obtain ⟨hcs, hdata, hidle, -⟩ := hs ha
    obtain ⟨hclk, hle⟩ := hidle (hbusy.job_eq_none hb)
    exact ⟨hcs, hdata, pinsFit_some (jobPins_setup hclk hle w 31)⟩
  · rw [armPins_events, hbusy.job_eq_none hb]
    exact fun _ => ⟨rfl, Option.some_ne_none _, pinsFit_none rfl rfl⟩
  · exact hs

theorem microStep_pinInv {s : State} {j : Job} (hj : s.block.job = some j) (hs : PinInv s) :
    PinInv (microStep j s) := by
  rw [pinInv_iff, microStep_armed, (microStep_appends j s).params]
  intro ha
  obtain ⟨hcs, hdata, -, hjob⟩ := hs ha
  obtain ⟨hcs', hdata'⟩ := microStep_cs_data j s hdata
  exact ⟨hcs'.trans hcs, hdata', microStep_pinsFit (hjob j hj)⟩

/-- Every step keeps the pin invariants (41_serial_writer.md R75). -/
theorem step_pinInv {s t : State} (hbusy : BusyInv s) (hs : PinInv s) (h : step s = .next t) : PinInv t := by
  obtain hhost | ⟨c, rest, i, -, -, hx⟩ | ⟨j, ⟨-, -, hj, -⟩, rfl⟩ := step_hostOnly_or h
  · exact hhost.pinInv hs
  · have hrequests := setRequests_hostOnly rest s
    exact exec_pinInv (hrequests.busyInv hbusy) (hrequests.pinInv hs) hx
  · exact microStep_pinInv (s := setRequests _ s) hj ((setRequests_hostOnly _ s).pinInv hs)

/-! The pins, the receiver and the trace tell one story (60_exceptions.md R100 (c)). -/

/-- The pins after a trace are the levels of its last events (10_state.md R22). -/
theorem pinLevel_pinsAfter (es : List Event) (ps : Pins) (p : Pin) :
    pinLevel (pinsAfter es ps) p = lastLevel p (pinLevel ps p) es := by
  induction es generalizing ps with
  | nil => rfl
  | cons e es ih =>
    cases e with
    | wait => exact ih ps
    | pin q u => rw [pinsAfter, ih, pinLevel_setPin, lastLevel]

theorem pinLevel_reset (p : Pin) : pinLevel Block.reset.pins p = none := by
  cases p <;> rfl

theorem RxFollowsTrace.pins_eq {s : State} (h : RxFollowsTrace s) :
    s.block.pins = pinsAfter s.block.trace Block.reset.pins := by
  rw [← replay_fst s.params.rxCommitEdge s.block.trace Block.reset.pins RxState.reset, h]

/-- That the receiver follows the trace says already that the pins do. -/
theorem RxFollowsTrace.pinsFollowTrace {s : State} (h : RxFollowsTrace s) : PinsFollowTrace s := by
  intro p
  rw [h.pins_eq, pinLevel_pinsAfter, pinLevel_reset]

theorem Appends.rxFollowsTrace {s t : State} {es : List Event} (h : Appends s t es) (hs : RxFollowsTrace s) :
    RxFollowsTrace t := by
  rw [RxFollowsTrace, h.params, h.trace, replay_append, hs, h.replayed]

/-! The rules of the serial interface along the trace (70_reset_and_hazards.md R106, R107). -/

/-- Events that keep the rules of the serial interface, from given pin levels. -/
structure CleanFrom (ps : Pins) (es : List Event) : Prop where
  pinsWait : pinsWait es = true
  clockQuiet : clockQuietWhileLatched ps es = true
  dataStable : dataStableWhileClockHigh ps es = true

/-- One drive keeps the rules if a clock edge finds LE Low and a change of DATA finds CLK Low. -/
theorem cleanFrom_drive {ps : Pins} {p : Pin} (hclk : p = .clk → ps.le = some .low)
    (hdata : p = .data → ps.clk = some .low) (v : Level) : CleanFrom ps [.pin p v, .wait] := by
  cases p with
  | cs | le => exact ⟨rfl, rfl, rfl⟩
  | clk => exact ⟨rfl, by simp [clockQuietWhileLatched, hclk rfl], rfl⟩
  | data => exact ⟨rfl, rfl, by simp [dataStableWhileClockHigh, hdata rfl]⟩

/-- A micro-step's drive keeps the rules, where the pins are as the phase says. -/
theorem cleanFrom_microTrace {release : DataRelease} {ps : Pins} {j : Job} (h : JobPins release ps j) :
    CleanFrom ps (microTrace j) := by
  obtain ⟨hclk, hle, -⟩ := h
  obtain ⟨w, b, phase⟩ := j
  cases phase with
  | setup | release => exact cleanFrom_drive (p := .data) nofun (fun _ => hclk) _
  | rise | fall => exact cleanFrom_drive (p := .clk) (fun _ => hle) nofun _
  | latchHigh | latchLow => exact cleanFrom_drive (p := .le) nofun nofun _

/-- ARM keeps the rules from any levels, because it drives LE before CLK and CLK before DATA (92_eei_decisions.md
D7). -/
theorem cleanFrom_armTrace (ps : Pins) (cs : Level) : CleanFrom ps (armTrace cs) :=
  ⟨rfl, by simp [armTrace, clockQuietWhileLatched, setPin], by simp [armTrace, dataStableWhileClockHigh, setPin]⟩

theorem Appends.traceClean {s t : State} {es : List Event} (h : Appends s t es) (hes : CleanFrom s.block.pins es)
    (hs : TraceClean s) (hrx : RxFollowsTrace s) : TraceClean t := by
  obtain ⟨hwait, hclock, hdata⟩ := hs
  rw [TraceClean, h.trace, pinsWait_append hwait, clockQuiet_append, dataStable_append, ← hrx.pins_eq, hclock, hdata,
    Bool.true_and, Bool.true_and]
  exact ⟨hes.pinsWait, hes.clockQuiet, hes.dataStable⟩

/-- What a step appends, from a state that meets the invariants of `busy` and of the pins, keeps the rules of the serial
interface. -/
theorem step_appends_clean {s t : State} (hbusy : BusyInv s) (hpins : PinInv s) (h : step s = .next t) :
    ∃ es, Appends s t es ∧ CleanFrom s.block.pins es := by
  obtain hnil | ⟨-, harm⟩ | ⟨j, ⟨-, hb, hj, -⟩, hm⟩ := step_appends h
  · exact ⟨[], hnil, rfl, rfl, rfl⟩
  · exact ⟨_, harm, cleanFrom_armTrace _ _⟩
  · obtain ⟨-, harmed, -⟩ := hbusy
    obtain ⟨-, -, -, hjob⟩ := hpins (harmed hb)
    exact ⟨_, hm, cleanFrom_microTrace (hjob j hj)⟩

/-- Settles O24: `busy` and the pins by the kinds of a step (`step_busyInv`, `step_pinInv`), and the pins, the receiver
and the trace by the events it appends (`step_appends_clean`). -/
theorem stepKeepsTheInvariant : Obligations.StepKeepsTheInvariant := by
  unfold Obligations.StepKeepsTheInvariant
  rintro s t ⟨hbusy, hpins, -, hrx, hclean⟩ h
  obtain ⟨es, happends, hes⟩ := step_appends_clean hbusy hpins h
  have hrx' := happends.rxFollowsTrace hrx
  exact ⟨step_busyInv hbusy h, step_pinInv hbusy hpins h, hrx'.pinsFollowTrace, hrx',
    happends.traceClean hes hclean hrx⟩

/-- Settles O25: at reset nothing has been driven and no job runs. -/
theorem resetMeetsTheInvariant : Obligations.ResetMeetsTheInvariant := by
  unfold Obligations.ResetMeetsTheInvariant
  intro p
  have hrx : RxFollowsTrace (State.resetWith p) := rfl
  exact ⟨⟨⟨nofun, fun h => absurd rfl h⟩, nofun, fun _ => rfl⟩, nofun, hrx.pinsFollowTrace, hrx, rfl, rfl, rfl⟩

/-! What the rules say of two events of one trace. -/

/-- A drive in a trace that keeps `pinsWait` is followed by a wait at once. -/
theorem wait_after_pin {xs ys : List Event} {p : Pin} {v : Level} (h : pinsWait (xs ++ .pin p v :: ys) = true) :
    ∃ zs, ys = .wait :: zs := by
  induction xs using pinsWait.induct with
  | case1 =>
    cases ys with
    | nil => cases h
    | cons y ys => cases y with
      | wait => exact ⟨ys, rfl⟩
      | pin q u => cases h
  | case2 q u xs ih => exact ih h
  | case3 q u xs hx => cases xs with
    | nil => cases h
    | cons x xs => cases x with
      | wait => exact absurd rfl (hx xs)
      | pin => cases h
  | case4 xs => cases h

/-- A drive of DATA in a trace that keeps `dataStableWhileClockHigh`, while CLK is High, leaves its level. -/
theorem data_same_of_clk_high {xs ys : List Event} {v : Level} {ps : Pins}
    (h : dataStableWhileClockHigh ps (xs ++ .pin .data v :: ys) = true) (hclk : (pinsAfter xs ps).clk = some .high) :
    (pinsAfter xs ps).data = some v := by
  rw [dataStable_append, dataStableWhileClockHigh, Bool.and_eq_true, Bool.and_eq_true] at h
  obtain ⟨-, hsame, -⟩ := h
  simpa [hclk] using hsame

/-- Settles O26: the state after the step meets the invariant (O24), whose rules on the trace are read at the two events
(`wait_after_pin`, `data_same_of_clk_high`), and whose pins at a Setup have CLK and LE Low. -/
theorem traceKeepsSerialTiming : Obligations.TraceKeepsSerialTiming := by
  unfold Obligations.TraceKeepsSerialTiming
  intro s t hs h
  obtain ⟨⟨hjob, harmed, -⟩, hpins, -, -, hwait, -, hdata⟩ := stepKeepsTheInvariant s t hs h
  refine ⟨fun xs ys zs p q u v htrace => ?_, fun xs zs v htrace hclk => ?_, fun j hj hphase => ?_⟩
  · rw [htrace] at hwait
    obtain ⟨ws, hws⟩ := wait_after_pin hwait
    cases ys with
    | nil => cases hws
    | cons y ys =>
      obtain ⟨rfl, -⟩ := List.cons.inj hws
      exact List.mem_cons_self
  · rw [htrace] at hdata
    have hlevel (p : Pin) : lastLevel p none xs = pinLevel (pinsAfter xs Block.reset.pins) p := by
      rw [pinLevel_pinsAfter, pinLevel_reset]
    rw [hlevel] at hclk ⊢
    exact data_same_of_clk_high hdata hclk
  · have hbusy : t.block.busy = true := hjob.2 (by rw [hj]; exact Option.some_ne_none j)
    obtain ⟨-, -, -, hfit⟩ := hpins (harmed hbusy)
    obtain ⟨hclk, hle, -⟩ := hfit j hj
    rw [hphase] at hclk hle
    exact ⟨hclk, hle⟩

end Sys2Proof.Machine
end

section
/-! PROOFS. The command port, read backwards: what a command that decodes must have been (30_encoding.md R52), what an
accepted text issues (R53), and what is refused (60_exceptions.md R91). -/

namespace Sys2Proof.Machine

/-! The code and the operands of a command that is read. -/

/-- A code is its bit 3 and its low three bits (30_encoding.md R52). -/
theorem code_toNat : ∀ d : Code, d.toNat = (d.extractLsb' 0 3).toNat + if d[3] then 8 else 0 := by
  decide

/-- The command `i` is what a code with bit 3 as given and a row of operands stand for. -/
structure ReadsAs (d : Code) (ops : List Operand) (op3 : Bool) (i : Instr) : Prop where
  code : (codeOf i).toNat = (d.extractLsb' 0 3).toNat + if op3 then 8 else 0
  operands : ops = operandsOf i

theorem ReadsAs.eq_encode {d : Code} {ops : List Operand} {i : Instr} (h : ReadsAs d ops d[3] i) :
    (⟨d, ops⟩ : HostCommand) = encode i := by
  have hcode : d = codeOf i := BitVec.eq_of_toNat_eq ((code_toNat d).trans h.code.symm)
  rw [encode, ← hcode, h.operands]

/-- A natural that is read as a word is the word's own value (60_exceptions.md R91 (c)). -/
theorem readWord_ok {n : Nat} {i : Instr} (h : readWord n = .ok i) :
    ∃ w : Word, i = .writeWord w ∧ n = w.toNat := by
  unfold readWord at h
  split_ifs at h with hn
  cases h
  exact ⟨_, rfl, (Nat.mod_eq_of_lt hn).symm⟩

/-- What the rows with `op[3] = 0` read. -/
theorem readWriter_ok {d : Code} {ops : List Operand} {i : Instr} (h : readWriter d ops = .ok i) :
    ReadsAs d ops false i := by
  unfold readWriter at h
  split at h
  case h_1 hc =>
    split at h
    · cases h; exact ⟨hc.symm, rfl⟩
    · cases h
  case h_2 hc =>
    split at h
    · obtain ⟨w, rfl, rfl⟩ := readWord_ok h
      exact ⟨hc.symm, rfl⟩
    · cases h
  case h_3 hc =>
    split at h
    · cases h; exact ⟨hc.symm, rfl⟩
    · cases h
  case h_4 hc =>
    split at h
    · cases h; exact ⟨hc.symm, rfl⟩
    · cases h
  case h_5 => cases h

/-- What the ENC rows read. -/
theorem readEncode_ok {d : Code} {r : RegRecord} {i : Instr} (h : readEncode d r = .ok i) :
    ReadsAs d [.record r] true i := by
  unfold readEncode at h
  split at h
  case h_7 => cases h
  all_goals
    rename_i hc
    cases h
    exact ⟨by rw [hc]; rfl, rfl⟩

/-- What is read from the port is the encoding of the command (30_encoding.md R52). -/
theorem eq_encode_of_readCommand {c : HostCommand} {i : Instr} (h : readCommand c = .ok i) : c = encode i := by
  obtain ⟨d, ops⟩ := c
  refine ReadsAs.eq_encode ?_
  unfold readCommand at h
  split at h
  · rename_i hc
    simp only at hc
    rw [hc]
    split at h
    · rename_i r hops
      simp only at hops
      rw [hops]
      exact readEncode_ok h
    · cases h
  · rename_i hc
    rw [Bool.eq_false_iff.2 hc]
    exact readWriter_ok h

/-- A command that decodes was read, and its records passed the check. -/
theorem decode_eq_ok_iff (l : Layout) (c : HostCommand) (i : Instr) :
    decode l c = .ok i ↔ readCommand c = .ok i ∧ i.WellFormed l := by
  rw [Instr.WellFormed, ← checkRecords_eq_ok_iff]
  unfold decode
  cases readCommand c with
  | error e => simp
  | ok j =>
    simp only [Except.ok.injEq]
    constructor
    · intro h
      split at h
      · rename_i hcheck
        cases h
        exact ⟨rfl, hcheck⟩
      · cases h
    · rintro ⟨rfl, hcheck⟩
      rw [hcheck]

/-- Settles O55: from the port to the command by what the rows read (`eq_encode_of_readCommand`), and back by
`decode_encode`. -/
theorem decodeInvertsEncode : Obligations.DecodeInvertsEncode := by
  unfold Obligations.DecodeInvertsEncode
  refine fun l c i => ⟨fun h => ?_, fun ⟨hc, hi⟩ => hc ▸ decode_encode hi⟩
  obtain ⟨hread, hi⟩ := (decode_eq_ok_iff l c i).1 h
  exact ⟨eq_encode_of_readCommand hread, hi⟩

/-- Settles O56: the accepted words are encodings of commands whose records fit the default layout (`decode_encode`),
and the last code is reserved (`decode_reserved`). -/
theorem someCommandWordsDecode : Obligations.SomeCommandWordsDecode := by
  unfold Obligations.SomeCommandWordsDecode
  refine ⟨decode_encode (i := .arm) nofun, decode_encode (i := .writeWord 0x00580005#32) nofun,
    decode_encode (i := .encR0 [("int", 96)]) (by decide), decode_encode (i := .encR5 []) (by decide),
    decode_reserved _ (by decide) _⟩

/-- Settles O57: the step takes the request off the queue and decodes it (`step_arrives`). -/
theorem stepRunsTheDecodedCommand : Obligations.StepRunsTheDecodedCommand := by
  unfold Obligations.StepRunsTheDecodedCommand
  intro s c rest i hc hi
  rw [step_arrives hc, runCommand, setRequests_params, hi]
  rfl

/-! Texts (30_encoding.md R53). -/

theorem allDecode_iff (l : Layout) (cs : List HostCommand) :
    allDecode l cs = true ↔ ∀ c ∈ cs, ∃ i, decode l c = .ok i := by
  induction cs with
  | nil => exact ⟨fun _ => nofun, fun _ => rfl⟩
  | cons c cs ih =>
    rw [allDecode, List.forall_mem_cons, ← ih]
    cases decode l c <;> simp

/-- The commands of an accepted text all decode. -/
theorem allDecode_of_parseProgram {l : Layout} {source : List Char} {cs : List HostCommand}
    (h : parseProgram l source = some cs) : allDecode l cs = true := by
  simp only [parseProgram, Option.bind_eq_bind, Option.bind_eq_some_iff] at h
  obtain ⟨ts, -, ds, -, hds⟩ := h
  split_ifs at hds with hall
  cases hds
  exact hall

/-- Settles O58: the commands decode (`allDecode_of_parseProgram`) to well-formed ones (`decode_eq_ok_iff`), and the
step that takes the text issues them (`step_due`). -/
theorem acceptedTextIssuesItsCommands : Obligations.AcceptedTextIssuesItsCommands := by
  unfold Obligations.AcceptedTextIssuesItsCommands
  intro s src cs h
  refine ⟨fun c hc => ?_, fun a rest c more hf hq hd hcs => ?_⟩
  · obtain ⟨i, hi⟩ := (allDecode_iff _ cs).1 (allDecode_of_parseProgram h) c hc
    exact ⟨i, hi, ((decode_eq_ok_iff _ c i).1 hi).2⟩
  · subst hcs
    rw [step_due hf hq hd]
    simp only [runAction, runText, setRequests_params, h]
    rfl

/-! Refusals (60_exceptions.md R91). -/

/-- Under a malformed layout a block without a fault refuses every command (60_exceptions.md R91 (b)). -/
theorem exec_malformed {s : State} (hf : s.block.faults = []) (hl : ¬ layoutWellFormed s.params.layout) (i : Instr) :
    exec i s = .next (refuse .malformedLayout s) := by
  obtain rfl | hw | ⟨k, r, he⟩ := instr_kinds i
  · simp only [exec, execArm, receive_malformed hf hl]
  · obtain ⟨w, ws, -, hx⟩ := exec_writer hw s
    rw [hx, acceptBurst, receive_malformed hf hl]
  · rw [exec_encodes he, returnWord, receive_malformed hf hl]

/-- WRITE_WORD with an operand at or above 2^32 does not decode (60_exceptions.md R91 (c)). -/
theorem decode_wordTooLarge (l : Layout) {n : Nat} (h : 2 ^ 32 ≤ n) :
    decode l ⟨0b0010#4, [.nat n]⟩ = .error (.wordTooLarge n) := by
  have hread : readCommand ⟨0b0010#4, [.nat n]⟩ = readWord n := by simp [readCommand, readWriter]
  rw [decode, hread, readWord, if_neg (Nat.not_lt.2 h)]

/-- A command that does not decode is refused by its arrival. -/
theorem step_undecoded {s : State} {c : HostCommand} {rest : List Request} {e : DecodeError} (hc : Arrives s c rest)
    (he : decode s.params.layout c = .error e) : step s = .next (refuse (.command e) (setRequests rest s)) := by
  rw [step_arrives hc, runCommand, setRequests_params, he]

/-- A command that arrives under a malformed layout is refused, whether it decodes or not. -/
theorem step_malformed {s : State} {c : HostCommand} {rest : List Request} (hc : Arrives s c rest)
    (hl : ¬ layoutWellFormed s.params.layout) : ∃ r, step s = .next (refuse r (setRequests rest s)) := by
  cases hd : decode s.params.layout c with
  | error e => exact ⟨_, step_undecoded hc hd⟩
  | ok i =>
    refine ⟨.malformedLayout, ?_⟩
    rw [step_arrives hc, runCommand, setRequests_params, hd]
    exact exec_malformed (s := setRequests rest s) hc.1 hl i

/-- Settles O40: in each of the four cases the step is `refuse`, of the decoder (`step_undecoded`), of the layout
(`step_malformed`) or of the text (`step_due`). -/
theorem refusalsSetTheMark : Obligations.RefusalsSetTheMark := by
  unfold Obligations.RefusalsSetTheMark
  intro s rest refused
  have hrefused (r : Refusal) : refused (refuse r (setRequests rest s)) :=
    ⟨rfl, rfl, rfl, rfl, rfl, rfl, r, rfl⟩
  refine ⟨fun c hc hbad => ?_, fun a src hf hq hd hparse => ⟨_, ?_, hrefused .malformedText⟩⟩
  · obtain hreserved | hl | ⟨hcode, n, hn, hops⟩ := hbad
    · exact ⟨_, step_undecoded hc (decode_reserved _ hreserved c.operands), hrefused _⟩
    · obtain ⟨r, hr⟩ := step_malformed hc hl
      exact ⟨_, hr, hrefused r⟩
    · obtain ⟨code, ops⟩ := c
      obtain rfl : code = 0b0010#4 := hcode
      obtain rfl : ops = [.nat n] := hops
      exact ⟨_, step_undecoded hc (decode_wordTooLarge _ hn), hrefused _⟩
  · rw [step_due hf hq hd]
    simp only [runAction, runText, setRequests_params, hparse]

end Sys2Proof.Machine
end

section
/-! PROOFS. The host's side: the errors it is told of (60_exceptions.md R86 to R88), and what its pseudo-commands set
and issue (42_sequencing.md R84). -/

namespace Sys2Proof.Machine

/-! Errors the host is told of (60_exceptions.md R86 to R88). -/

/-- The one error that a command returns is NoDevice (60_exceptions.md R86). -/
theorem eq_noDevice_of_exec {i : Instr} {s t : State} {e : ErrorKind} (h : exec i s = .next t)
    (hr : t.host.responses = s.host.responses ++ [.error e]) : e = .noDevice := by
  obtain ⟨-, rfl | ⟨-, rfl, -⟩ | ⟨-, -, rfl, -⟩ | ⟨-, -, -, w, ws, -, rfl⟩ | ⟨-, -, rfl⟩ | ⟨k, r, -, rfl⟩⟩ :=
    exec_next h
  · cases List.append_cancel_left hr
  · cases List.append_cancel_left hr
  · cases List.append_cancel_left hr
    rfl
  · cases List.self_eq_append_right.1 hr
  · rw [respond_responses, setArmed_responses, armPins_responses] at hr
    cases List.append_cancel_left hr
  · cases List.append_cancel_left hr

/-- A text returns nothing but its refusal (60_exceptions.md R91 (d)). -/
theorem runText_responses (source : List Char) (s : State) :
    (runText source s).host.responses = s.host.responses ∨
      (runText source s).host.responses = s.host.responses ++ [.refused .malformedText] := by
  unfold runText
  split
  · rename_i cs _
    cases cs <;> exact .inl rfl
  · exact .inr rfl

/-- A write that the VCO's state allows issues WRITE_ALL, and otherwise Ok goes to the host (42_sequencing.md R84). -/
theorem writeIfPowered_setRecords (r : Registers) (s : State) :
    writeIfPowered (setRecords r s) =
      if fieldValue r[4] "vco_power_down" = 0 then issueNow (writeAllOf r) (setRecords r s)
      else respond (.ok none) (setRecords r s) := by
  simp [writeIfPowered, vcoPowered]

theorem ifHostArmed_eq (s t : State) :
    ifHostArmed s t = if s.block.armed = false then raiseError .noDevice s else t := by
  unfold ifHostArmed
  cases s.block.armed <;> rfl

/-- A pseudo-command returns Ok or NoDevice or nothing, unless it is `set_frequency` whose planner failed. -/
theorem runPseudo_error {p : PseudoCommand} {s : State} {e : ErrorKind} (he : e ≠ .noDevice)
    (hr : (runPseudo p s).host.responses = s.host.responses ++ [.error e]) :
    p = .setFrequency (.failed e) ∧ runPseudo p s = raiseError e s := by
  have hsilent {t : State} (ht : t.host.responses = s.host.responses) :
      t.host.responses ≠ s.host.responses ++ [.error e] := by
    rw [ht]
    exact fun h => List.cons_ne_nil _ _ (List.self_eq_append_right.1 h)
  have harmed {t : State} (h : (ifHostArmed s t).host.responses = s.host.responses ++ [.error e]) :
      t.host.responses = s.host.responses ++ [.error e] ∧ ifHostArmed s t = t := by
    rw [ifHostArmed_eq] at h ⊢
    split_ifs at h ⊢
    · cases List.append_cancel_left h
      exact absurd rfl he
    · exact ⟨h, rfl⟩
  have hpowered (r : Registers) :
      (writeIfPowered (setRecords r s)).host.responses ≠ s.host.responses ++ [.error e] := by
    rw [writeIfPowered_setRecords]
    split_ifs
    · exact hsilent rfl
    · exact fun h => by cases List.append_cancel_left h
  cases p with
  | setup => exact absurd hr (hsilent rfl)
  | setFrequency outcome =>
    obtain ⟨hr, hrun⟩ := harmed hr
    cases outcome with
    | planned r => exact absurd hr (hpowered r)
    | failed f =>
      cases List.append_cancel_left hr
      exact ⟨rfl, hrun⟩
  | setOutputEnable on => exact absurd (harmed hr).1 (hsilent rfl)
  | setMode up => exact absurd (harmed hr).1 (hsilent rfl)
  | setTuning cp op low => exact absurd (harmed hr).1 (hpowered _)

/-- Settles O42: of the kinds of a step, a command's one error is NoDevice (`eq_noDevice_of_exec`), a text and the
writer return no error (`runText_responses`, `microStep_raises_nothing`), and among the pseudo-commands only a failed
plan returns another (`runPseudo_error`). -/
theorem plannerErrorsAreNotTheBlocks : Obligations.PlannerErrorsAreNotTheBlocks := by
  unfold Obligations.PlannerErrorsAreNotTheBlocks
  intro s t e h hr he
  obtain ⟨-, ⟨a, c, rest, -, -, ⟨d, -, rfl⟩ | ⟨i, -, hx⟩⟩ | ⟨a, src, rest, -, rfl⟩ | ⟨a, p, rest, hq, rfl⟩ |
    ⟨j, -, rfl⟩ | rfl⟩ := step_next h
  · cases List.append_cancel_left hr
  · exact absurd (eq_noDevice_of_exec (s := setRequests rest s) hx hr) he
  · obtain hsame | hrefused := runText_responses src (setRequests rest s)
    · cases List.self_eq_append_right.1 (hsame.symm.trans hr)
    · cases List.append_cancel_left (hrefused.symm.trans hr)
  · obtain ⟨rfl, hrun⟩ := runPseudo_error (s := setRequests rest s) he hr
    exact ⟨a, rest, hq, hrun⟩
  · obtain ⟨-, hsame | hok⟩ := microStep_raises_nothing j (setRequests (countDown s.host.requests) s)
    · cases List.self_eq_append_right.1 (hsame.symm.trans hr)
    · cases List.append_cancel_left (hok.symm.trans hr)
  · cases List.self_eq_append_right.1 hr

/-! The pseudo-commands (42_sequencing.md R84). -/

/-- A field of Reg2 that `set_mode` may drive reads as it was set if it is driven, and every other field as before. -/
theorem fieldValue_setModeField (driven : Bool) (f g : FieldName) (v : Nat) (r : Registers) (k : RegIndex) :
    fieldValue (setModeField driven f v r)[k] g =
      if k = 2 ∧ g = f ∧ driven = true then v else fieldValue r[k] g := by
  cases driven with
  | false => simp [setModeField]
  | true => simpa [setModeField] using fieldValue_setRegField r 2 k f g v

/-- Every field of every record after `set_mode`. -/
theorem fieldValue_setPowerDown (v : Nat) (r : Registers) (k : RegIndex) (g : FieldName) :
    fieldValue (setPowerDown v r)[k] g =
      if (k = 4 ∧ g = "vco_power_down") ∨ (k = 2 ∧ g = "power_down" ∧ Config.modeDrivesPowerDown = true) ∨
        (k = 2 ∧ g = "cp_three_state" ∧ Config.modeDrivesThreeState = true) then v
      else fieldValue r[k] g := by
  rw [setPowerDown, fieldValue_setModeField, fieldValue_setModeField, fieldValue_setRegField, ite_or, ite_or]
  split_ifs <;> rfl

/-- Every field of every record after `set_tuning`: its three fields have different names. -/
theorem fieldValue_tuneFields (cp op : Nat) (low : Bool) (r : Registers) (k : RegIndex) (g : FieldName) :
    fieldValue (tuneFields cp op low r)[k] g =
      if k = 2 ∧ g = "cp_current" then cp
      else if k = 4 ∧ g = "output_power" then op
      else if k = 2 ∧ g = "low_noise_spur" then Config.lowNoiseCode low
      else fieldValue r[k] g := by
  simp only [tuneFields, fieldValue_setRegField]
  by_cases hlow : g = "low_noise_spur"
  · subst hlow
    simp
  · simp only [hlow, and_false, if_false]
    by_cases hcp : g = "cp_current"
    · subst hcp
      simp
    · simp [hcp]

/-- Settles O36: the step is `runPseudo` (`step_due`) case by case, and what each command set is read back by
`fieldValue_setRegField`, `fieldValue_setPowerDown` and `fieldValue_tuneFields`. -/
theorem pseudoCommandsExpand : Obligations.PseudoCommandsExpand := by
  unfold Obligations.PseudoCommandsExpand
  intro s p a rest hf hq hd old returns issues all partialWrite powered enabled vcoSet pumpSet modeSet tuned
  have hpowered (r : Registers) : writeIfPowered (setRecords r (setRequests rest s)) = powered r :=
    writeIfPowered_setRecords r _
  have hon (on : Bool) : on.toNat = if on then 1 else 0 := by cases on <;> rfl
  refine ⟨?step, fun on k f => fieldValue_setRegField old 4 k "rf_out_en" f _,
    fun v k f => fieldValue_setPowerDown v old k f, fun cp op low k f => fieldValue_tuneFields cp op low old k f⟩
  case step =>
    rw [step_due hf hq hd]
    refine congrArg Host.Outcome.next ?_
    cases p with
    | setup => rfl
    | setFrequency outcome =>
      refine (ifHostArmed_eq _ _).trans (if_congr Iff.rfl rfl ?_)
      cases outcome with
      | failed e => rfl
      | planned r => exact hpowered r
    | setOutputEnable on =>
      refine (ifHostArmed_eq _ _).trans (if_congr Iff.rfl rfl ?_)
      simp only [pseudoSetOutputEnable, hon]
      rfl
    | setMode up =>
      refine (ifHostArmed_eq _ _).trans (if_congr Iff.rfl rfl ?_)
      cases up <;> rfl
    | setTuning cp op low => exact (ifHostArmed_eq _ _).trans (if_congr Iff.rfl rfl (hpowered _))

end Sys2Proof.Machine
end

section
/-! PROOFS. The laws of the encoder that follow from R54 and the checks on a layout (40_encoder.md R58): the OR of parts
that share no bit is their sum, and what two words of one layout say of their records. -/

namespace Sys2Proof.Machine

/-! The OR of disjoint parts is their sum (40_encoder.md R54). -/

/-- Two numbers that share no bit are added without a carry. -/
theorem or_eq_add_of_and_eq_zero {m n : Nat} (h : m &&& n = 0) : m ||| n = m + n := by
  induction m using Nat.strong_induction_on generalizing n with
  | _ m ih =>
    obtain rfl | hm := Nat.eq_zero_or_pos m
    · rw [Nat.zero_or, Nat.zero_add]
    · have hhalf : (m ||| n) / 2 = m / 2 + n / 2 := by
        rw [Nat.or_div_two, ih (m / 2) (by omega) (by rw [← Nat.and_div_two, h])]
      have hlow : (m ||| n) % 2 = 1 ↔ m % 2 = 1 ∨ n % 2 = 1 := Nat.or_mod_two_eq_one
      have hboth : ¬ (m % 2 = 1 ∧ n % 2 = 1) := by rw [← Nat.and_mod_two_eq_one, h]; nofun
      omega

/-- A field shares no bit with the fields it is disjoint from (30_encoding.md R40 (d)). -/
theorem fieldPart_and_fieldParts {f : Field} {fs : List Field} (h : ∀ g ∈ fs, fieldsDisjoint f g) (r : RegRecord) :
    fieldPart r f &&& fieldParts r fs = 0 := by
  refine Nat.eq_of_testBit_eq fun i => ?_
  rw [Nat.testBit_and, Nat.zero_testBit]
  by_cases hi : Covers f i
  · rw [fieldParts_testBit_uncovered (fun g hg => ?_), Bool.and_false]
    have hapart := h g hg
    omega
  · rw [fieldPart_testBit, decide_eq_false hi, Bool.false_and, Bool.false_and]

theorem fieldParts_eq_sum {fs : List Field} (h : fs.Pairwise fieldsDisjoint) (r : RegRecord) :
    fieldParts r fs = (fs.map (fieldPart r)).sum := by
  induction h with
  | nil => rfl
  | cons hf _ ih =>
    rw [fieldParts, or_eq_add_of_and_eq_zero (fieldPart_and_fieldParts hf r), ih, List.map_cons, List.sum_cons]

/-- The index shares no bit with the fields (30_encoding.md R40 (b)). -/
theorem regIndex_and_fieldParts {fs : List Field} (h : ∀ f ∈ fs, fieldInBounds f) (k : RegIndex) (r : RegRecord) :
    k.val &&& fieldParts r fs = 0 := by
  refine Nat.eq_of_testBit_eq fun i => ?_
  rw [Nat.testBit_and, Nat.zero_testBit]
  by_cases hi : i < 3
  · rw [fieldParts_testBit_uncovered (fun f hf => ?_), Bool.and_false]
    have hbounds := h f hf
    omega
  · rw [regIndex_testBit_high k (Nat.not_lt.1 hi), Bool.false_and]

/-- Settles O8: neither the index and the fields (`regIndex_and_fieldParts`) nor two fields (`fieldParts_eq_sum`) share
a bit, so their OR is their sum (`or_eq_add_of_and_eq_zero`). -/
theorem encodeSumsItsTerms : Obligations.EncodeSumsItsTerms := by
  unfold Obligations.EncodeSumsItsTerms
  intro l k r h
  obtain ⟨hbounds, hdisjoint, -⟩ := h k
  rw [encodeReg_toNat h, encodeNat, or_eq_add_of_and_eq_zero (regIndex_and_fieldParts hbounds k r),
    fieldParts_eq_sum hdisjoint]
  rfl

/-! The laws (40_encoder.md R58). -/

/-- A record of zeros adds nothing to the index. -/
theorem fieldParts_zero {r : RegRecord} {fs : List Field} (h : ∀ f ∈ fs, fieldValue r f.name = 0) :
    fieldParts r fs = 0 := by
  induction fs with
  | nil => rfl
  | cons f fs ih =>
    obtain ⟨hf, hfs⟩ := List.forall_mem_cons.1 h
    rw [fieldParts, ih hfs, fieldPart, hf, Nat.zero_mod, Nat.zero_shiftLeft, Nat.or_zero]

/-- Setting a field leaves the part of every field with another name. -/
theorem fieldPart_setField_other (r : RegRecord) {f g : Field} (h : g.name ≠ f.name) (v : Nat) :
    fieldPart (setField r f.name v) g = fieldPart r g := by
  rw [fieldPart, fieldPart, fieldValue_setField_other r h]

/-- Setting a field leaves every bit outside it, because no other field has its name (30_encoding.md R40 (e)). -/
theorem encodeReg_setField_getLsbD {l : Layout} (h : layoutWellFormed l) {k : RegIndex} {f : Field}
    (hf : f ∈ layoutFields l k) (r : RegRecord) (v : Nat) {i : Nat} (hi : ¬ Covers f i) :
    (encodeReg l k (setField r f.name v)).getLsbD i = (encodeReg l k r).getLsbD i := by
  have hpart : ∀ g ∈ layoutFields l k,
      (fieldPart (setField r f.name v) g).testBit i = (fieldPart r g).testBit i := by
    intro g hg
    by_cases hname : g.name = f.name
    · obtain rfl := eq_of_name_eq (h k) hf hg hname
      rw [fieldPart_testBit, fieldPart_testBit, decide_eq_false hi, Bool.false_and, Bool.false_and]
    · rw [fieldPart_setField_other r hname]
  have hfields : ((layoutFields l k).any fun g => (fieldPart (setField r f.name v) g).testBit i) =
      (layoutFields l k).any fun g => (fieldPart r g).testBit i := by
    rw [Bool.eq_iff_iff, List.any_eq_true, List.any_eq_true]
    exact exists_congr fun g => and_congr_right fun hg => by rw [hpart g hg]
  rw [encodeReg, encodeReg, BitVec.getLsbD_ofNat, BitVec.getLsbD_ofNat, encodeNat_testBit, encodeNat_testBit, hfields]

/-- Settles O11: the fields are read back by their slices (`slice_encodeReg`), which gives injectivity with
`encodeReg_congr`; the other laws are read from the bits (`encodeReg_getLsbD_uncovered`, `encodeReg_setField_getLsbD`),
and two registers differ in bits 2 to 0 (`encodeNat_mod_eight`). -/
theorem encoderLaws : Obligations.EncoderLaws := by
  unfold Obligations.EncoderLaws
  intro l k r h
  refine ⟨fun f hf => slice_encodeReg h hf r, fun i hi hfree => encodeReg_getLsbD_uncovered hi hfree r, fun hzero => ?_,
    fun q => ⟨fun heq f hf => ?_, encodeReg_congr⟩, fun j q hne heq => ?_,
    fun f hf v i hi => encodeReg_setField_getLsbD h hf r v hi⟩
  · rw [encodeReg, encodeNat, fieldParts_zero hzero, Nat.or_zero]
  · rw [← slice_encodeReg h hf r, ← slice_encodeReg h hf q, heq]
  · have hindex := congrArg (fun w : Word => w.toNat % 2 ^ 3) heq
    simp only [encodeReg_toNat h, encodeNat_mod_eight h] at hindex
    exact hne (Fin.ext hindex)

end Sys2Proof.Machine
end

section
/-! PROOFS. What a command leaves unchanged, by its kind: encode commands, writer commands and ARM (40_encoder.md R57,
41_serial_writer.md R65, R66, 42_sequencing.md R81, R82). -/

namespace Sys2Proof.Machine

/-- A command that leaves a next state under a well-formed layout sets no refusal mark (60_exceptions.md R91). -/
theorem exec_refused {i : Instr} {s t : State} (h : exec i s = .next t) (hl : layoutWellFormed s.params.layout) :
    t.refused = s.refused := by
  have hlive : Live s := ⟨(exec_next h).1, hl⟩
  by_cases hb : encodes i = none ∧ s.block.busy = true
  · rw [exec_busy hlive hb.2 hb.1] at h
    cases h
    rfl
  by_cases ha : isWriter i = true ∧ s.block.armed = false
  · have hidle : s.block.busy = false := Bool.eq_false_iff.2 fun hbusy => hb ⟨encodes_of_isWriter ha.1, hbusy⟩
    rw [exec_writer_unarmed hlive hidle ha.2 ha.1] at h
    cases h
    rfl
  · obtain ⟨u, hu, -, hrefused, -⟩ := exec_accepted hlive hb ha
    rw [hu] at h
    cases h
    exact hrefused

/-- No command touches the host's records or its requests. -/
theorem exec_host {i : Instr} {s t : State} (h : exec i s = .next t) :
    t.host.records = s.host.records ∧ t.host.requests = s.host.requests := by
  obtain ⟨-, rfl | ⟨-, rfl, -⟩ | ⟨-, -, rfl, -⟩ | ⟨-, -, -, w, ws, -, rfl⟩ | ⟨-, -, rfl⟩ | ⟨k, r, -, rfl⟩⟩ :=
    exec_next h
  · exact ⟨rfl, rfl⟩
  · exact ⟨rfl, rfl⟩
  · exact ⟨rfl, rfl⟩
  · exact ⟨rfl, rfl⟩
  · rw [armPins_events]
    exact ⟨rfl, rfl⟩
  · exact ⟨rfl, rfl⟩

/-- While the block is idle no command adds or clears a fault (60_exceptions.md R89). -/
theorem exec_faults_of_idle {i : Instr} {s t : State} (h : exec i s = .next t) (hb : s.block.busy = false) :
    t.block.faults = s.block.faults := by
  obtain hsame | ⟨-, hbusy, -⟩ := exec_faults h
  · exact hsame
  · exact absurd (hbusy.symm.trans hb) nofun

/-- At a block that is not ready no command touches `busy`, the job or the pending words (60_exceptions.md R93). -/
theorem exec_burst_of_not_ready {i : Instr} {s t : State} (h : exec i s = .next t) (hn : ¬ Ready s) :
    t.block.busy = s.block.busy ∧ t.block.job = s.block.job ∧ t.block.pending = s.block.pending := by
  obtain hsame | ⟨hb, ha, -⟩ := exec_burst h
  · exact hsame
  · have hf := (exec_next h).1
    have hl : ¬ layoutWellFormed s.params.layout := fun hl => hn ⟨⟨hf, hl⟩, hb, ha⟩
    rw [exec_malformed hf hl] at h
    cases h
    exact ⟨rfl, rfl, rfl⟩

/-- Settles O51: the command is refused or answers with its word (`returnWord_next`), and either is one outcome more. -/
theorem encodeFrame : Obligations.EncodeFrame := by
  unfold Obligations.EncodeFrame
  intro s t i hi h
  obtain ⟨⟨k, r⟩, he⟩ := Option.ne_none_iff_exists'.1 hi
  have hrefused := exec_refused h
  rw [exec_encodes he] at h
  obtain ⟨-, rfl | rfl⟩ := returnWord_next h
  · exact ⟨rfl, rfl, rfl, rfl, rfl, ⟨_, rfl⟩, hrefused⟩
  · exact ⟨rfl, rfl, rfl, rfl, rfl, ⟨_, rfl⟩, hrefused⟩

/-- Settles O52: a writer command appends no event at its arrival (`exec_appends`), arms nothing (`exec_armed`), and
reaches the burst only at a ready block (`exec_burst_of_not_ready`). -/
theorem writerFrame : Obligations.WriterFrame := by
  unfold Obligations.WriterFrame
  intro s t i hi h
  have hne : i ≠ .arm := by rintro rfl; cases hi
  have hnil : Appends s t [] := (exec_appends h).resolve_right fun harm => hne harm.1
  have harmed := (exec_armed h).resolve_right fun harm => hne harm.1
  have hreplayed : s.block.pins = t.block.pins ∧ s.rx = t.rx := Prod.mk.inj hnil.replayed
  obtain ⟨hrecords, hrequests⟩ := exec_host h
  exact ⟨hnil.params, hreplayed.2.symm, hrecords, hrequests, harmed, hreplayed.1.symm,
    hnil.trace.trans (List.append_nil _), exec_burst_of_not_ready h, exec_faults_of_idle h, exec_refused h⟩

/-- ARM at a busy block touches neither `armed`, nor the pins, the trace or the receiver (60_exceptions.md R89). -/
theorem exec_arm_busy {s t : State} (h : exec .arm s = .next t) (hb : s.block.busy = true) :
    t.block.armed = s.block.armed ∧ t.block.pins = s.block.pins ∧ t.block.trace = s.block.trace ∧ t.rx = s.rx := by
  obtain ⟨-, rfl | ⟨-, rfl⟩ | ⟨hidle, -⟩⟩ := execArm_next h
  · exact ⟨rfl, rfl, rfl, rfl⟩
  · exact ⟨rfl, rfl, rfl, rfl⟩
  · exact absurd (hb.symm.trans hidle) nofun

/-- Settles O53: ARM starts no burst (`exec_burst`), does nothing to a busy block but the fault (`exec_arm_busy`), and
touches no fault of an idle one (`exec_faults_of_idle`). -/
theorem armFrame : Obligations.ArmFrame := by
  unfold Obligations.ArmFrame
  intro s t h
  have hparams : t.params = s.params := by
    obtain hnil | ⟨-, harm⟩ := exec_appends h
    · exact hnil.params
    · exact harm.params
  obtain ⟨hrecords, hrequests⟩ := exec_host h
  obtain ⟨hbusy, hjob, hpending⟩ := (exec_burst h).resolve_right fun hw => absurd hw.2.2 nofun
  exact ⟨hparams, hrecords, hrequests, hbusy, hjob, hpending, exec_arm_busy h, exec_faults_of_idle h, exec_refused h⟩

end Sys2Proof.Machine
end

section
/-! PROOFS. Nothing is read back (20_memory.md section 3): every operation that a step is made of gives, from two states
that differ only in the receiver, states that differ only in the receiver. -/

namespace Sys2Proof.Machine

/-- The state with another receiver. -/
def withRx (rx : RxState) (s : State) : State :=
  { s with rx := rx }

/-- Two outcomes that differ at most in the receiver of the next state. -/
def SameButRx : Host.Outcome State Fault Refusal → Host.Outcome State Fault Refusal → Prop
  | .next t, .next u => ∃ rx, u = withRx rx t
  | .fault f, .fault g => f = g
  | .refused a, .refused b => a = b
  | _, _ => False

/-- The check for a recorded fault and for the layout reads no receiver. -/
theorem sameButRx_receive {s : State} {rx : RxState} {go go' : State → Host.Outcome State Fault Refusal}
    (h : SameButRx (go s) (go' (withRx rx s))) : SameButRx (receive s go) (receive (withRx rx s) go') := by
  cases hf : s.block.faults with
  | cons f fs =>
    rw [receive_faulted hf, receive_faulted (s := withRx rx s) hf]
    rfl
  | nil =>
    by_cases hl : layoutWellFormed s.params.layout
    · rw [receive_live ⟨hf, hl⟩, receive_live (s := withRx rx s) ⟨hf, hl⟩]
      exact h
    · rw [receive_malformed hf hl, receive_malformed (s := withRx rx s) hf hl]
      exact ⟨rx, rfl⟩

theorem sameButRx_unlessBusy {s : State} {rx : RxState} {go go' : State → Host.Outcome State Fault Refusal}
    (h : SameButRx (go s) (go' (withRx rx s))) : SameButRx (unlessBusy s go) (unlessBusy (withRx rx s) go') := by
  cases hb : s.block.busy with
  | true =>
    rw [unlessBusy_busy hb, unlessBusy_busy (s := withRx rx s) hb]
    exact ⟨rx, rfl⟩
  | false =>
    rw [unlessBusy_idle hb, unlessBusy_idle (s := withRx rx s) hb]
    exact h

theorem sameButRx_ifArmed {s : State} {rx : RxState} {go go' : State → Host.Outcome State Fault Refusal}
    (h : SameButRx (go s) (go' (withRx rx s))) : SameButRx (ifArmed s go) (ifArmed (withRx rx s) go') := by
  cases ha : s.block.armed with
  | true =>
    rw [ifArmed_armed ha, ifArmed_armed (s := withRx rx s) ha]
    exact h
  | false =>
    rw [ifArmed_unarmed ha, ifArmed_unarmed (s := withRx rx s) ha]
    exact ⟨rx, rfl⟩

theorem sameButRx_acceptBurst (w : Word) (ws : List Word) (s : State) (rx : RxState) :
    SameButRx (acceptBurst w ws s) (acceptBurst w ws (withRx rx s)) := by
  unfold acceptBurst
  refine sameButRx_receive ?_
  refine sameButRx_unlessBusy ?_
  refine sameButRx_ifArmed ?_
  exact ⟨rx, rfl⟩

/-- Driving events with another receiver leaves the same pins and the same trace. -/
theorem afterEvents_withRx (rx : RxState) (s : State) (es : List Event) (j : Option Job) :
    afterEvents (withRx rx s) es j =
      withRx (replay s.params.rxCommitEdge es (s.block.pins, rx)).2 (afterEvents s es j) := by
  simp only [afterEvents, withRx, replay_fst]

/-- A command does not depend on the receiver, and ARM's drives only pass it on (10_state.md R26). -/
theorem sameButRx_exec (i : Instr) (s : State) (rx : RxState) : SameButRx (exec i s) (exec i (withRx rx s)) := by
  obtain rfl | hw | ⟨k, r, he⟩ := instr_kinds i
  · simp only [exec, execArm, armPins_events]
    refine sameButRx_receive ?_
    refine sameButRx_unlessBusy ?_
    rw [afterEvents_withRx]
    exact ⟨_, rfl⟩
  · obtain ⟨w, ws, hws, hx⟩ := exec_writer hw s
    obtain ⟨v, vs, hvs, hx'⟩ := exec_writer hw (withRx rx s)
    obtain ⟨rfl, rfl⟩ := List.cons.inj (hws.symm.trans hvs)
    rw [hx, hx']
    exact sameButRx_acceptBurst w ws s rx
  · rw [exec_encodes he, exec_encodes he]
    exact sameButRx_receive ⟨rx, rfl⟩

/-- A micro-step does not depend on the receiver that it drives. -/
theorem microStep_withRx (j : Job) (rx : RxState) (s : State) :
    ∃ rx', microStep j (withRx rx s) = withRx rx' (microStep j s) := by
  cases hj : j.phase with
  | setup => rw [microStep_setup hj, microStep_setup hj]; exact ⟨_, afterEvents_withRx rx s _ _⟩
  | rise => rw [microStep_rise hj, microStep_rise hj]; exact ⟨_, afterEvents_withRx rx s _ _⟩
  | fall =>
    rw [microStep_fall hj, microStep_fall hj]
    cases hr : s.params.dataRelease with
    | hold => rw [fallStep_hold hr, fallStep_hold (s := withRx rx s) hr]; exact ⟨_, afterEvents_withRx rx s _ _⟩
    | driveLow =>
      rw [fallStep_driveLow hr, fallStep_driveLow (s := withRx rx s) hr]
      exact ⟨_, afterEvents_withRx rx s _ _⟩
  | release => rw [microStep_release hj, microStep_release hj]; exact ⟨_, afterEvents_withRx rx s _ _⟩
  | latchHigh => rw [microStep_latchHigh hj, microStep_latchHigh hj]; exact ⟨_, afterEvents_withRx rx s _ _⟩
  | latchLow =>
    rw [microStep_latchLow hj, microStep_latchLow hj]
    cases hp : s.block.pending with
    | nil =>
      rw [latchLowStep_last hp, latchLowStep_last (s := withRx rx s) hp, driveWait_events, driveWait_events,
        afterEvents_withRx]
      exact ⟨_, rfl⟩
    | cons w rest =>
      rw [latchLowStep_more hp, latchLowStep_more (s := withRx rx s) hp, driveWait_events, driveWait_events,
        afterEvents_withRx]
      exact ⟨_, rfl⟩

theorem runText_withRx (source : List Char) (rx : RxState) (s : State) :
    runText source (withRx rx s) = withRx rx (runText source s) := by
  simp only [runText, withRx]
  cases parseProgram s.params.layout source with
  | none => rfl
  | some cs => cases cs <;> rfl

theorem ifHostArmed_withRx {rx : RxState} {s t u : State} (h : u = withRx rx t) :
    ifHostArmed (withRx rx s) u = withRx rx (ifHostArmed s t) := by
  rw [ifHostArmed_eq, ifHostArmed_eq, h, apply_ite (withRx rx)]
  rfl

theorem writeIfPowered_withRx (r : Registers) (rx : RxState) (s : State) :
    writeIfPowered (setRecords r (withRx rx s)) = withRx rx (writeIfPowered (setRecords r s)) := by
  rw [writeIfPowered_setRecords, writeIfPowered_setRecords, apply_ite (withRx rx)]
  rfl

theorem runPseudo_withRx (p : PseudoCommand) (rx : RxState) (s : State) :
    runPseudo p (withRx rx s) = withRx rx (runPseudo p s) := by
  cases p with
  | setup => rfl
  | setFrequency outcome =>
    refine ifHostArmed_withRx ?_
    cases outcome with
    | planned r => exact writeIfPowered_withRx r rx s
    | failed e => rfl
  | setOutputEnable on => exact ifHostArmed_withRx rfl
  | setMode up => exact ifHostArmed_withRx rfl
  | setTuning cp op low => exact ifHostArmed_withRx (writeIfPowered_withRx _ rx s)

theorem sameButRx_runAction (a : HostAction) (s : State) (rx : RxState) :
    SameButRx (runAction a s) (runAction a (withRx rx s)) := by
  cases a with
  | command c =>
    have hlayout : (withRx rx s).params.layout = s.params.layout := rfl
    simp only [runAction, runCommand, hlayout]
    cases decode s.params.layout c with
    | ok i => exact sameButRx_exec i s rx
    | error e => exact ⟨rx, rfl⟩
  | text source => exact ⟨rx, runText_withRx source rx s⟩
  | pseudo p => exact ⟨rx, runPseudo_withRx p rx s⟩

/-- An idle turn is idle with any receiver. -/
theorem turn_idle_withRx {s : State} (h : turn s = .idle) (rx : RxState) : turn (withRx rx s) = .idle := by
  obtain ⟨f, fs, hf, -⟩ | ⟨hf, r, rest, hq, hd, -⟩ | ⟨j, hj, -⟩ | ⟨-, hidle⟩ := turn_cases (withRx rx s)
  · rw [turn_faulted (s := s) hf] at h
    cases h
  · rw [turn_due (s := s) hf hq hd] at h
    cases h
  · have hj : WriterMoves s j := hj
    rw [turn_writer hj] at h
    cases h
  · exact hidle

theorem step_idle {s : State} (h : turn s = .idle) : step s = .next s := by
  simp only [step, runTurn, h]

/-- The step does not depend on the receiver (20_memory.md section 3). -/
theorem sameButRx_step (s : State) (rx : RxState) : SameButRx (step s) (step (withRx rx s)) := by
  obtain ⟨f, fs, hf, -⟩ | ⟨hf, r, rest, hq, hd, -⟩ | ⟨j, hj, -⟩ | ⟨-, hidle⟩ := turn_cases s
  · rw [step_faulted hf, step_faulted (s := withRx rx s) hf]
    rfl
  · rw [step_due hf hq hd, step_due (s := withRx rx s) hf hq hd]
    exact sameButRx_runAction r.action (setRequests rest s) rx
  · have hj' : WriterMoves (withRx rx s) j := hj
    rw [step_writer hj, step_writer hj']
    exact microStep_withRx j rx (setRequests (countDown s.host.requests) s)
  · rw [step_idle hidle, step_idle (turn_idle_withRx hidle rx)]
    exact ⟨rx, rfl⟩

/-- Settles O50: the two outcomes of the step differ at most in the receiver (`sameButRx_step`). -/
theorem blockCannotSeeTheReceiver : Obligations.BlockCannotSeeTheReceiver := by
  unfold Obligations.BlockCannotSeeTheReceiver
  intro s rx
  have hsame := sameButRx_step s rx
  refine ⟨fun t ht => ?_, fun f hf => ?_⟩
  · rw [ht] at hsame
    cases hu : step (withRx rx s) with
    | next u =>
      rw [hu] at hsame
      obtain ⟨rx', rfl⟩ := hsame
      exact ⟨rx', hu⟩
    | fault g => rw [hu] at hsame; cases hsame
    | refused r => rw [hu] at hsame; cases hsame
  · rw [hf] at hsame
    cases hu : step (withRx rx s) with
    | next u => rw [hu] at hsame; cases hsame
    | fault g =>
      rw [hu] at hsame
      obtain rfl := hsame
      exact hu
    | refused r => rw [hu] at hsame; cases hsame

end Sys2Proof.Machine
end

section
/-! PROOFS. Whole words and bursts (41_serial_writer.md R74, R77, 42_sequencing.md R83): what a word appends, event by
event, what the receiver holds after it, and that every accepted command completes. -/

namespace Sys2Proof.Machine

/-! The events of a word (41_serial_writer.md R74). -/

/-- The events of a bit period as the rule writes them. -/
theorem bitTrace_eq (release : DataRelease) (b : Bool) :
    bitTrace release b =
      [.pin .data (if b = true then .high else .low), .wait, .pin .clk .high, .wait, .pin .clk .low, .wait] ++
        (if release = .driveLow then [.pin .data .low, .wait] else []) := by
  cases release <;> cases b <;> rfl

/-- The bits of a word are sent from the highest down. -/
theorem bitsTrace_eq_flatMap (release : DataRelease) (w : Word) (n : Nat) :
    bitsTrace release w n = (List.range n).reverse.flatMap fun i => bitTrace release (w.getLsbD i) := by
  induction n with
  | zero => rfl
  | succ n ih => rw [bitsTrace, ih, List.range_succ, List.reverse_append]; rfl

theorem waits_wordTrace (release : DataRelease) (w : Word) : waits (wordTrace release w) = wordSteps release := by
  have hbit (b : Bool) : waits (bitTrace release b) = bitSteps release := by cases release <;> rfl
  have hbits (n : Nat) : waits (bitsTrace release w n) = n * bitSteps release := by
    induction n with
    | zero => rw [Nat.zero_mul]; rfl
    | succ n ih => rw [bitsTrace, waits_append, hbit, ih, Nat.succ_mul, Nat.add_comm]
  rw [wordTrace, waits_append, hbits, wordSteps_eq]
  rfl

/-- Every drive of a word is followed by one wait. -/
theorem pinsWait_wordTrace (release : DataRelease) (w : Word) : pinsWait (wordTrace release w) = true := by
  have hbits (n : Nat) : pinsWait (bitsTrace release w n) = true := by
    induction n with
    | zero => rfl
    | succ n ih =>
      rw [bitsTrace, pinsWait_append (by cases release <;> rfl)]
      exact ih
  rw [wordTrace, pinsWait_append (hbits 32)]
  rfl

/-- A LatchLow step appends its drive and its wait, whether a word is pending or not. -/
theorem latchLowStep_trace (s : State) :
    (latchLowStep s).block.trace = s.block.trace ++ [.pin .le .low, .wait] :=
  (microStep_appends ⟨0, 0, .latchLow⟩ s).trace

/-- A word that is sent appends its trace, whatever is pending after it. -/
theorem reaches_wordTrace {s : State} {w : Word} (h : Sending s ⟨w, 31, .setup⟩) :
    ∃ t, Reaches (wordSteps s.params.dataRelease) s t ∧
      t.block.trace = s.block.trace ++ wordTrace s.params.dataRelease w := by
  refine ⟨_, reaches_latchLowStep h, ?_⟩
  rw [latchLowStep_trace, wordTrace]
  simp [afterEvents]

/-- Settles O22: the word's run appends `wordTrace` (`reaches_wordTrace`), which is the rule's list
(`bitsTrace_eq_flatMap`) and has two events for each micro-step (`length_wordTrace`, `waits_wordTrace`). -/
theorem oneWordAppendsItsTrace : Obligations.OneWordAppendsItsTrace := by
  unfold Obligations.OneWordAppendsItsTrace
  rintro s w ⟨hf, hb, hj, -⟩ hq
  obtain ⟨t, hrun, htrace⟩ := reaches_wordTrace ⟨hf, hb, hj, hq⟩
  refine ⟨t, _, hrun, htrace, ?_, fun hhold => ?_, fun hlow => ?_, pinsWait_wordTrace _ w⟩
  · simp only [wordTrace, bitsTrace_eq_flatMap, bitTrace_eq]
  · rw [length_wordTrace, waits_wordTrace, hhold]
    exact ⟨rfl, rfl⟩
  · rw [length_wordTrace, waits_wordTrace, hlow]
    exact ⟨rfl, rfl⟩

/-- A burst that a ready block accepts runs to its end, if the host asks nothing more. -/
theorem reaches_afterBurst_accepted {s : State} (h : Ready s) (hq : s.host.requests = []) (w : Word) (ws : List Word) :
    Reaches ((w :: ws).length * wordSteps s.params.dataRelease) (setBurst w ws s) (afterBurst s w ws) :=
  reaches_afterBurst (sending_setBurst h hq w ws) rfl

/-- Settles O23: the run of an accepted burst (`reaches_afterBurst_accepted`). -/
theorem everyBurstRunsToItsEnd : Obligations.EveryBurstRunsToItsEnd := by
  unfold Obligations.EveryBurstRunsToItsEnd
  intro s w ws h hq
  rw [Nat.add_comm 1, ← List.length_cons (a := w)]
  exact reaches_afterBurst_accepted h hq w ws

/-! Delivery (41_serial_writer.md R77). -/

/-- What the receiver holds after WRITE_WORD at an armed, idle block whose pins are as they should be. -/
theorem afterBurst_word_delivered {s : State} (w : Word) (ha : s.block.armed = true) (hjob : s.block.job = none)
    (hpins : PinInv s) : (afterBurst s w []).rx = ⟨srOfWord w, commitWord s.rx.reg w⟩ :=
  afterBurst_word_rx (hpins.clk_low ha hjob) (hpins.le_low ha hjob)

/-- Settles O28: the word's run (`reaches_afterBurst_word`) leaves the receiver with the word in its shift register and
committed by its index (`afterBurst_word_delivered`). -/
theorem writeWordIsDelivered : Obligations.WriteWordIsDelivered := by
  unfold Obligations.WriteWordIsDelivered
  intro s w hready hjob hpins hq
  have hrx := afterBurst_word_delivered w hready.2.2 hjob hpins
  refine ⟨_, _, acceptBurst_ready hready w [], reaches_afterBurst_word hready hq w, rfl, rfl, ?_⟩
  rw [hrx]
  refine ⟨fun i hi => srOfWord_get w i hi, fun hindex => commitWord_register _ hindex, fun hindex k hk => ?_⟩
  simp only [commitWord_noRegister _ hindex, unknownRegs_get]

/-- The pins after a word: CLK and LE are Low again (41_serial_writer.md R75). -/
theorem pinsAfter_wordTrace_low (release : DataRelease) (w : Word) (ps : Pins) :
    (pinsAfter (wordTrace release w) ps).clk = some .low ∧ (pinsAfter (wordTrace release w) ps).le = some .low := by
  have hbits (n : Nat) (qs : Pins) (hqs : qs.clk = some .low) :
      (pinsAfter (bitsTrace release w n) qs).clk = some .low := by
    induction n generalizing qs with
    | zero => exact hqs
    | succ n ih =>
      rw [bitsTrace, pinsAfter_append]
      exact ih _ (pinsAfter_bitTrace_clk release _ qs)
  refine ⟨?_, by rw [wordTrace, pinsAfter_append]; rfl⟩
  have hclk : (pinsAfter (bitsTrace release w 32) ps).clk = some .low := by
    rw [bitsTrace, pinsAfter_append]
    exact hbits 31 _ (pinsAfter_bitTrace_clk release _ ps)
  rw [wordTrace, pinsAfter_append]
  exact hclk

theorem afterBurst_word_pins (s : State) (w : Word) :
    (afterBurst s w []).block.pins = pinsAfter (wordTrace s.params.dataRelease w) s.block.pins := by
  simp only [afterBurst, burstTrace_singleton, replay_fst]

/-- The same word committed twice is committed once (20_memory.md section 2). -/
theorem commitWord_idem (reg : Vector (Option Word) 6) (w : Word) :
    commitWord (commitWord reg w) w = commitWord reg w := by
  obtain h | h := Nat.lt_or_ge (w.toNat % 8) 6
  · rw [commitWord_register _ h, commitWord_register _ h, Vector.set_set]
  · rw [commitWord_noRegister _ h, commitWord_noRegister _ h]

/-- Settles O30: the second run starts with CLK and LE Low again (`pinsAfter_wordTrace_low`), so that it appends the
same events and commits the same word (`commitWord_idem`). -/
theorem sameWordTwiceIsIdempotent : Obligations.SameWordTwiceIsIdempotent := by
  unfold Obligations.SameWordTwiceIsIdempotent
  intro s w hready hjob hpins hq
  have hready' : Ready (afterBurst s w []) := ⟨hready.1, rfl, hready.2.2⟩
  have hlow := pinsAfter_wordTrace_low s.params.dataRelease w s.block.pins
  rw [← afterBurst_word_pins] at hlow
  refine ⟨_, _, _, _, wordTrace s.params.dataRelease w, acceptBurst_ready hready w [],
    reaches_afterBurst_word hready hq w, acceptBurst_ready hready' w [], reaches_afterBurst_word hready' hq w,
    ?_, ?_, ?_⟩
  · simp only [afterBurst, burstTrace_singleton]
  · simp only [afterBurst, burstTrace_singleton]
  · rw [afterBurst_word_rx hlow.1 hlow.2, afterBurst_word_delivered w hready.2.2 hjob hpins, commitWord_idem]

/-! Bursts (42_sequencing.md R83). -/

/-- A burst commits its words in order, from CLK and LE Low. -/
theorem replay_burstTrace_reg (edge : CommitEdge) (release : DataRelease) (ws : List Word) {ps : Pins}
    (hclk : ps.clk = some .low) (hle : ps.le = some .low) (rx : RxState) :
    (replay edge (burstTrace release ws) (ps, rx)).2.reg = ws.foldl commitWord rx.reg := by
  induction ws generalizing ps rx with
  | nil => rfl
  | cons w ws ih =>
    have hword : replay edge (wordTrace release w) (ps, rx) =
        (pinsAfter (wordTrace release w) ps, ⟨srOfWord w, commitWord rx.reg w⟩) :=
      Prod.ext (replay_fst _ _ _ _) (replay_wordTrace edge release w hclk hle rx)
    obtain ⟨hclk', hle'⟩ := pinsAfter_wordTrace_low release w ps
    rw [burstTrace, replay_append, hword, ih hclk' hle']
    rfl

/-- A burst at an armed, idle block whose pins are as they should be commits its words in order. -/
theorem afterBurst_reg {s : State} (w : Word) (ws : List Word) (ha : s.block.armed = true)
    (hjob : s.block.job = none) (hpins : PinInv s) :
    (afterBurst s w ws).rx.reg = (w :: ws).foldl commitWord s.rx.reg :=
  replay_burstTrace_reg _ _ (w :: ws) (hpins.clk_low ha hjob) (hpins.le_low ha hjob) s.rx

/-- An encoded word is committed to the register it was encoded for (40_encoder.md R55). -/
theorem commitWord_encodeReg {l : Layout} (h : layoutWellFormed l) (reg : Vector (Option Word) 6) (k : RegIndex)
    (r : RegRecord) : commitWord reg (encodeReg l k r) = reg.set k (some (encodeReg l k r)) := by
  have hindex : (encodeReg l k r).toNat % 8 = k.val := (encodeKeepsIndexBits l k r h).1
  rw [commitWord_register reg (by omega)]
  simp only [hindex]

/-- The events of a burst, word by word, after those that were there. -/
theorem afterBurst_trace (s : State) (w : Word) (ws : List Word) :
    (afterBurst s w ws).block.trace =
      (w :: ws).foldl (fun es v => es ++ wordTrace s.params.dataRelease v) s.block.trace := by
  have hfold (es : List Event) (vs : List Word) : es ++ burstTrace s.params.dataRelease vs =
      vs.foldl (fun es v => es ++ wordTrace s.params.dataRelease v) es := by
    induction vs generalizing es with
    | nil => exact List.append_nil es
    | cons v vs ih => rw [burstTrace, ← List.append_assoc, ih]; rfl
  exact hfold _ (w :: ws)

/-- A writer command at a ready block with its pins as they should be commits its words in order. -/
theorem writer_delivers {i : Instr} {s : State} (hready : Ready s) (hjob : s.block.job = none) (hpins : PinInv s)
    (hq : s.host.requests = []) (hi : isWriter i = true) :
    ∃ t u, exec i s = .next t ∧
      Reaches ((burstWords s.params.layout i).length * wordSteps s.params.dataRelease) t u ∧ u.block.busy = false ∧
      u.rx.reg = (burstWords s.params.layout i).foldl commitWord s.rx.reg ∧
      u.block.trace =
        (burstWords s.params.layout i).foldl (fun es v => es ++ wordTrace s.params.dataRelease v) s.block.trace := by
  obtain ⟨w, ws, hws, hx⟩ := exec_writer_ready hready hi
  rw [hws]
  exact ⟨_, _, hx, reaches_afterBurst_accepted hready hq w ws, rfl, afterBurst_reg w ws hready.2.2 hjob hpins,
    afterBurst_trace s w ws⟩

/-- Settles O34: a writer command commits its words in order (`writer_delivers`), and each is committed to its own
register (`commitWord_encodeReg`). -/
theorem burstIsDelivered : Obligations.BurstIsDelivered := by
  unfold Obligations.BurstIsDelivered
  intro s r0 r1 r2 r3 r4 r5 hready hjob hpins hq l word
  have hl : layoutWellFormed s.params.layout := hready.1.2
  constructor
  · obtain ⟨t, u, hx, hrun, hbusy, hreg, htrace⟩ :=
      writer_delivers (i := .writeAll r0 r1 r2 r3 r4 r5) hready hjob hpins hq rfl
    refine ⟨t, u, hx, hrun, hbusy, ?_, htrace⟩
    simp only [hreg, burstWords, List.foldl_cons, List.foldl_nil, commitWord_encodeReg hl]
    refine Vector.ext fun i hi => ?_
    interval_cases i <;> simp [l]
  · obtain ⟨t, u, hx, hrun, hbusy, hreg, -⟩ := writer_delivers (i := .writeR4R2 r4 r2) hready hjob hpins hq rfl
    refine ⟨t, u, hx, hrun, hbusy, ?_⟩
    simp only [hreg, burstWords, List.foldl_cons, List.foldl_nil, commitWord_encodeReg hl]
    refine Vector.ext fun i hi => ?_
    interval_cases i <;> simp [l]

/-! Completion (41_serial_writer.md section 4). -/

/-- A bound on the micro-steps that a job takes to the end of its word, for both releases. -/
def stepsLeft (j : Job) : Nat :=
  match j.phase with
  | .setup => 4 * j.bit.val + 6
  | .rise => 4 * j.bit.val + 5
  | .fall => 4 * j.bit.val + 4
  | .release => 4 * j.bit.val + 3
  | .latchHigh => 2
  | .latchLow => 1

theorem stepsLeft_nextBit (j : Job) : stepsLeft (nextBit j) ≤ 4 * j.bit.val + 2 := by
  obtain hbit | hbit := Nat.eq_zero_or_pos j.bit.val
  · simp only [nextBit_last hbit, stepsLeft]
    omega
  · simp only [nextBit_lower hbit, stepsLeft]
    omega

theorem stepsLeft_pos (j : Job) : 0 < stepsLeft j := by
  unfold stepsLeft
  split <;> omega

theorem stepsLeft_le (j : Job) : stepsLeft j ≤ 130 := by
  unfold stepsLeft
  split <;> omega

/-- A micro-step within a word brings its end nearer. -/
theorem microStep_stepsLeft {j : Job} (h : j.phase ≠ .latchLow) (s : State) :
    ∃ es k, microStep j s = afterEvents s es (some k) ∧ stepsLeft k < stepsLeft j := by
  have hnext := stepsLeft_nextBit j
  cases hj : j.phase with
  | setup => exact ⟨_, _, microStep_setup hj s, by simp [stepsLeft, hj]⟩
  | rise => exact ⟨_, _, microStep_rise hj s, by simp [stepsLeft, hj]⟩
  | fall =>
    have hleft : stepsLeft j = 4 * j.bit.val + 4 := by simp [stepsLeft, hj]
    rw [microStep_fall hj]
    cases hr : s.params.dataRelease with
    | hold => exact ⟨_, _, fallStep_hold hr j, by omega⟩
    | driveLow => exact ⟨_, _, fallStep_driveLow hr j, by simp [stepsLeft, hj]⟩
  | release =>
    have hleft : stepsLeft j = 4 * j.bit.val + 3 := by simp [stepsLeft, hj]
    exact ⟨_, _, microStep_release hj s, by omega⟩
  | latchHigh => exact ⟨_, _, microStep_latchHigh hj s, by simp [stepsLeft, hj]⟩
  | latchLow => exact absurd hj h

/-- A bound on the micro-steps to the end of a burst: those of its word, and 130 for each word pending. -/
def burstStepsLeft (j : Job) (pending : List Word) : Nat :=
  stepsLeft j + 130 * pending.length

/-- `t` is idle after the burst of `s`, and Ok is the one outcome returned between them. -/
def Completes (s t : State) : Prop :=
  t.block.busy = false ∧ t.block.job = none ∧ t.block.pending = [] ∧ t.block.faults = [] ∧
    t.host.responses = s.host.responses ++ [.ok none]

/-- A micro-step of a sending writer completes the burst, or brings its end nearer and returns nothing. -/
theorem Sending.progress {s : State} {j : Job} (h : Sending s j) :
    Completes s (microStep j s) ∨
      ∃ k, Sending (microStep j s) k ∧ (microStep j s).host.responses = s.host.responses ∧
        burstStepsLeft k (microStep j s).block.pending < burstStepsLeft j s.block.pending := by
  obtain ⟨hf, hb, -, hq⟩ := h
  by_cases hj : j.phase = .latchLow
  · rw [microStep_latchLow hj]
    cases hp : s.block.pending with
    | nil =>
      rw [latchLowStep_last hp]
      exact .inl ⟨rfl, rfl, hp, hf, rfl⟩
    | cons w rest =>
      rw [latchLowStep_more hp]
      refine .inr ⟨⟨w, 31, .setup⟩, ⟨hf, hb, rfl, hq⟩, rfl, ?_⟩
      have hpos := stepsLeft_pos j
      have hle := stepsLeft_le ⟨w, 31, .setup⟩
      simp only [burstStepsLeft, setNextWord_pending, List.length_cons]
      omega
  · obtain ⟨es, k, hmicro, hlt⟩ := microStep_stepsLeft hj s
    rw [hmicro]
    exact .inr ⟨k, ⟨hf, hb, rfl, hq⟩, rfl, Nat.add_lt_add_right hlt _⟩

/-- A sending writer that nothing disturbs completes its burst within the bound. -/
theorem Sending.completes {s : State} {j : Job} (h : Sending s j) :
    ∃ n t, n ≤ burstStepsLeft j s.block.pending ∧ Reaches n s t ∧ Completes s t := by
  induction hm : burstStepsLeft j s.block.pending using Nat.strong_induction_on generalizing s j with
  | _ m ih =>
    subst hm
    have hstep : Reaches 1 s (microStep j s) := h.reaches_one rfl
    obtain hdone | ⟨k, hk, hresponses, hlt⟩ := h.progress
    · exact ⟨1, _, Nat.le_add_right_of_le (stepsLeft_pos j), hstep, hdone⟩
    · obtain ⟨n, t, hn, hrun, hdone⟩ := ih _ hlt hk rfl
      rw [Completes, hresponses] at hdone
      exact ⟨1 + n, t, by omega, reaches_trans hstep hrun, hdone⟩

/-- Settles O31: the measure `burstStepsLeft` falls with every micro-step (`Sending.completes`), and it is at most 130
for each word. -/
theorem acceptedCommandAlwaysCompletes : Obligations.AcceptedCommandAlwaysCompletes := by
  unfold Obligations.AcceptedCommandAlwaysCompletes
  intro s hf hb hjob hq
  obtain ⟨j, hj⟩ := Option.ne_none_iff_exists'.1 hjob
  have hsending : Sending s j := ⟨hf, hb, hj, hq⟩
  obtain ⟨n, t, hn, hrun, hdone⟩ := hsending.completes
  have hle := stepsLeft_le j
  unfold burstStepsLeft at hn
  exact ⟨n, t, by omega, hrun, hdone⟩

/-! The waits of each command (70_reset_and_hazards.md R113). -/

theorem waits_burstTrace (release : DataRelease) (ws : List Word) :
    waits (burstTrace release ws) = ws.length * wordSteps release := by
  induction ws with
  | nil => rw [List.length_nil, Nat.zero_mul]; rfl
  | cons w ws ih =>
    rw [burstTrace, waits_append, waits_wordTrace, ih, List.length_cons, Nat.succ_mul, Nat.add_comm]

/-- The command `i` from `s` completes with `n` waits and one outcome. -/
def CompletesWithWaits (i : Instr) (s : State) (n : Nat) : Prop :=
  ∃ t k u es, exec i s = .next t ∧ Reaches k t u ∧ u.block.busy = false ∧
    u.block.trace = s.block.trace ++ es ∧ waits es = n ∧ leastTime es = n * Config.tStep ∧
    u.host.responses.length = s.host.responses.length + 1

/-- A writer command takes a wait for each micro-step of its words. -/
theorem writer_completesWithWaits {i : Instr} {s : State} {n : Nat} (h : Ready s) (hq : s.host.requests = [])
    (hi : isWriter i = true) (hn : (burstWords s.params.layout i).length * wordSteps s.params.dataRelease = n) :
    CompletesWithWaits i s n := by
  obtain ⟨w, ws, hws, hx⟩ := exec_writer_ready h hi
  have hwaits : waits (burstTrace s.params.dataRelease (w :: ws)) = n := by rw [waits_burstTrace, ← hws, hn]
  exact ⟨_, _, _, _, hx, reaches_afterBurst_accepted h hq w ws, rfl, rfl, hwaits,
    congrArg (· * Config.tStep) hwaits, List.length_append⟩

/-- A command that is over at its arrival takes the waits of its own events. -/
theorem completesWithWaits_of_exec {i : Instr} {s t : State} {es : List Event} {n : Nat} (hx : exec i s = .next t)
    (hb : t.block.busy = false) (htrace : t.block.trace = s.block.trace ++ es) (hes : waits es = n)
    (hr : t.host.responses.length = s.host.responses.length + 1) : CompletesWithWaits i s n :=
  ⟨t, 0, t, es, hx, reaches_zero t, hb, htrace, hes, congrArg (· * Config.tStep) hes, hr⟩

theorem arm_completesWithWaits {s : State} (h : Ready s) : CompletesWithWaits .arm s 4 := by
  refine completesWithWaits_of_exec (es := armTrace s.params.csActive) (execArm_idle h.1 h.2.1) ?_ ?_ rfl ?_
  · rw [armPins_events]
    exact h.2.1
  · rw [armPins_events]
    rfl
  · rw [respond_responses, setArmed_responses, armPins_responses, List.length_append]
    rfl

theorem encodes_completesWithWaits {i : Instr} {k : RegIndex} {r : RegRecord} {s : State} (h : Ready s)
    (hi : encodes i = some (k, r)) : CompletesWithWaits i s 0 :=
  completesWithWaits_of_exec (es := []) (exec_encodes_returns h.1 hi) h.2.1 (List.append_nil _).symm rfl
    List.length_append

/-- Settles O59: by the kind of command, the events of ARM, those of the words of a writer command
(`writer_completesWithWaits`), or none. -/
theorem commandsWaitAsTheTableSays : Obligations.CommandsWaitAsTheTableSays := by
  unfold Obligations.CommandsWaitAsTheTableSays
  intro s i h hq
  cases i with
  | arm => exact arm_completesWithWaits h
  | writeWord w =>
    refine writer_completesWithWaits h hq rfl ?_
    cases s.params.dataRelease <;> simp [burstWords, wordSteps]
  | writeAll r0 r1 r2 r3 r4 r5 =>
    refine writer_completesWithWaits h hq rfl ?_
    cases s.params.dataRelease <;> simp [burstWords, wordSteps]
  | writeR4R2 r4 r2 =>
    refine writer_completesWithWaits h hq rfl ?_
    cases s.params.dataRelease <;> simp [burstWords, wordSteps]
  | encR0 | encR1 | encR2 | encR3 | encR4 | encR5 => exact encodes_completesWithWaits h rfl

end Sys2Proof.Machine
end
